-- ==== Sys2Proof/Word.lean ====
section
/-! DEFINITION. The word types of CORE: the widths that 00_scope.md R2 fixes, as bit vectors. -/

namespace Sys2Proof

/-- A register, a data-memory cell, or an immediate after extension: 8 bits (10_state.md R10, R11). -/
abbrev Byte := BitVec 8

/-- An instruction word, a raw pipeline buffer, or the program counter: 16 bits (10_state.md R14, R22). -/
abbrev Word := BitVec 16

/-- A register field of an instruction: 6 bits, every value names a register (10_state.md R10). -/
abbrev RegIdx := BitVec 6

/-- The opcode field of an instruction: 4 bits (30_encoding.md R51). -/
abbrev Opcode := BitVec 4

end Sys2Proof
end

