-- ==== Sys2Proof/Config.lean ====
section
/-! DEFINITION. The parameters of CORE (00_scope.md R2). Every one is a constant of the spec; none is left to the
implementation, and the spec leaves no free value (93_implementation_defined.md U9), so this file holds no opaque constant. -/

namespace Sys2Proof.Config

/-- `IMEM_WORDS`: the number of 16-bit words of instruction memory (00_scope.md R2, 20_memory.md R30). -/
abbrev imemWords : Nat := 1024

/-- `DMEM_CELLS`: the number of 8-bit cells of data memory (00_scope.md R2, 20_memory.md R31). -/
abbrev dmemCells : Nat := 2048

/-- `NOP_WORD`: the NOP sentinel (00_scope.md R2, 45_nop_reserved.md R105). -/
abbrev nopWord : Word := 0xFFFF#16

/-- `TERM_WORD`: the end-of-program marker in instruction memory (00_scope.md R2, 45_nop_reserved.md R107). -/
abbrev termWord : Word := 0x0000#16

/-- `DRAIN_CYCLES`: the value the drain counter starts from (00_scope.md R2, 46_pipeline.md R113). -/
abbrev drainCycles : Nat := 2

/-- `FLUSH_COUNT`: what a taken long-form BEQZ loads into the skip counter (00_scope.md R2, 43_control.md R90). -/
abbrev flushCount : Int := 2

/-- `BEQZ_SHORT_MAX`: the largest offset magnitude the skip counter handles alone (00_scope.md R2, 43_control.md R90). -/
abbrev beqzShortMax : Int := 2

end Sys2Proof.Config
end

