-- ==== Sys2Proof/Syntax.lean ====
section
/-! DEFINITION. The instructions of CORE, one constructor per row of spec/opcode_table.json, and the decoded-instruction
record that the EX buffer holds (10_state.md R23). -/

namespace Sys2Proof

/-- The record `{nop, opcode, r1, r2, imm}` the decoder emits and EX holds (10_state.md R23, 30_encoding.md R56, R65).
When `nop` is true the other fields carry no meaning. -/
structure Decoded where
  nop : Bool
  opcode : Opcode
  r1 : RegIdx
  r2 : RegIdx
  imm : Byte
  deriving DecidableEq, Repr

/-- An instruction. Register operands are 6-bit indexes; an immediate or a shift amount is the 8-bit value the decoder hands to
the execute stage (30_encoding.md R53, R54). The fields of an unrecognized word are extracted and ignored
(45_nop_reserved.md R106). -/
inductive Instr where
  /-- the whole word 0xFFFF (45_nop_reserved.md R105) -/
  | nop
  /-- opcode 0 (40_arithmetic.md R75) -/
  | add (r1 r2 : RegIdx)
  /-- opcode 1 (40_arithmetic.md R76) -/
  | sub (r1 r2 : RegIdx)
  /-- opcode 2 (40_arithmetic.md R77) -/
  | mul (r1 r2 : RegIdx)
  /-- opcode 3 (41_move_logic.md R80) -/
  | movi (r1 : RegIdx) (imm : Byte)
  /-- opcode 4 (43_control.md R90) -/
  | beqz (r1 : RegIdx) (imm : Byte)
  /-- opcode 5 (41_move_logic.md R81) -/
  | andi (r1 : RegIdx) (imm : Byte)
  /-- opcode 6 (41_move_logic.md R82) -/
  | eor (r1 r2 : RegIdx)
  /-- opcode 7 (43_control.md R92) -/
  | br (r1 r2 : RegIdx)
  /-- opcode 8 (42_shift.md R85) -/
  | sal (r1 : RegIdx) (shamt : Byte)
  /-- opcode 9 (42_shift.md R86) -/
  | sar (r1 : RegIdx) (shamt : Byte)
  /-- opcode 10 (44_load_store.md R100) -/
  | ldr (r1 : RegIdx) (imm : Byte)
  /-- opcode 11 (44_load_store.md R101) -/
  | str (r1 : RegIdx) (imm : Byte)
  /-- opcode 12 (45_nop_reserved.md R106) -/
  | unrecognized12 (r1 low : RegIdx)
  /-- opcode 13 (45_nop_reserved.md R106) -/
  | unrecognized13 (r1 low : RegIdx)
  /-- opcode 14 (45_nop_reserved.md R106) -/
  | unrecognized14 (r1 low : RegIdx)
  /-- opcode 15, every word but 0xFFFF (45_nop_reserved.md R106) -/
  | unrecognized15 (r1 low : RegIdx)
  deriving DecidableEq, Repr

end Sys2Proof
end

