-- ==== Sys2Proof/WellFormed.lean ====
section
/-! DEFINITION. Which instructions some 16-bit word stands for: the ranges of the operand classes (30_encoding.md R52 to R54)
and the one word that opcode 15 does not have (R58, R59). -/

namespace Sys2Proof

/-- A sign-extended 6-bit immediate lies in -32 .. 31 (30_encoding.md R52, R53). -/
def immInRange (imm : Byte) : Bool :=
  decide (-32 ≤ imm.toInt ∧ imm.toInt ≤ 31)

/-- A shift amount lies in 0 .. 63 (30_encoding.md R52, R54). -/
def shamtInRange (shamt : Byte) : Bool :=
  decide (shamt.toNat ≤ 63)

/-- An instruction is well formed when some instruction word encodes it. Every register field is legal (10_state.md R10). -/
def Instr.wellFormed : Instr → Bool
  | .nop => true
  | .add _ _ => true
  | .sub _ _ => true
  | .mul _ _ => true
  | .movi _ imm => immInRange imm
  | .beqz _ imm => immInRange imm
  | .andi _ imm => immInRange imm
  | .eor _ _ => true
  | .br _ _ => true
  | .sal _ shamt => shamtInRange shamt
  | .sar _ shamt => shamtInRange shamt
  | .ldr _ imm => immInRange imm
  | .str _ imm => immInRange imm
  | .unrecognized12 _ _ => true
  | .unrecognized13 _ _ => true
  | .unrecognized14 _ _ => true
  | .unrecognized15 r1 low => decide (¬ (r1 = 63#6 ∧ low = 63#6))

end Sys2Proof
end

