-- ==== Sys2Proof/Decode.lean ====
section
/-! DEFINITION. The Instruction Decoder (30_encoding.md R50 to R61, R65) and, after it, the encoder (R64). The decoder is a
total function of one 16-bit word; it rejects nothing, since every one of the 65536 words has a meaning (R61). -/

namespace Sys2Proof

/-! ### Fields of a word (30_encoding.md R51) -/

/-- `w[15:12]`. -/
def opcodeField (w : Word) : Opcode := w.extractLsb' 12 4

/-- `w[11:6]`. -/
def r1Field (w : Word) : RegIdx := w.extractLsb' 6 6

/-- `w[5:0]`, the field called `low`. -/
def lowField (w : Word) : RegIdx := w.extractLsb' 0 6

/-- `opcode ++ r1 ++ low` (30_encoding.md R51). -/
def packFields (opcode : Opcode) (r1 low : RegIdx) : Word := opcode ++ r1 ++ low

/-! ### Immediates -/

/-- `sext_8(low)`, the I-signed immediate (30_encoding.md R53). -/
def signedImm (low : RegIdx) : Byte :=
  if low.getLsbD 5 then 0b11#2 ++ low else 0b00#2 ++ low

/-- `zext_8(low)`, the I-shift amount (30_encoding.md R54). -/
def shiftImm (low : RegIdx) : Byte := 0b00#2 ++ low

/-- `imm[5:0]`, the field an immediate came from. -/
def lowOfImm (imm : Byte) : RegIdx := imm.extractLsb' 0 6

/-! ### The decoder -/

/-- The "empty" decoding of the NOP sentinel (30_encoding.md R56; its other fields carry no meaning, 10_state.md R23). -/
def nopDecoded : Decoded := { nop := true, opcode := 0#4, r1 := 0#6, r2 := 0#6, imm := 0#8 }

/-- `Decode(w)` (30_encoding.md R56; the fields an opcode does not use follow decision D16). -/
def decode (w : Word) : Decoded :=
  if w = Config.nopWord then nopDecoded
  else
    { nop := false
      opcode := opcodeField w
      r1 := r1Field w
      r2 := lowField w
      imm :=
        if opcodeField w = 8#4 ∨ opcodeField w = 9#4 then shiftImm (lowField w)
        else signedImm (lowField w) }

/-- The instruction that dispatch selects for a decoded record, by the NOP tag and then by the opcode alone
(46_pipeline.md R115, 30_encoding.md R57). -/
def Decoded.instr (d : Decoded) : Instr :=
  if d.nop then .nop
  else
    match d.opcode.toNat with
    | 0 => .add d.r1 d.r2
    | 1 => .sub d.r1 d.r2
    | 2 => .mul d.r1 d.r2
    | 3 => .movi d.r1 d.imm
    | 4 => .beqz d.r1 d.imm
    | 5 => .andi d.r1 d.imm
    | 6 => .eor d.r1 d.r2
    | 7 => .br d.r1 d.r2
    | 8 => .sal d.r1 d.imm
    | 9 => .sar d.r1 d.imm
    | 10 => .ldr d.r1 d.imm
    | 11 => .str d.r1 d.imm
    | 12 => .unrecognized12 d.r1 d.r2
    | 13 => .unrecognized13 d.r1 d.r2
    | 14 => .unrecognized14 d.r1 d.r2
    | _ => .unrecognized15 d.r1 d.r2

/-- The instruction a word stands for (30_encoding.md R57). -/
def decodeInstr (w : Word) : Instr := (decode w).instr

/-- The instruction this decoder reads from an instruction whose bits are `w`, `nbits` of them, every bit above them 0. Every
instruction is one 16-bit word (30_encoding.md R50), so bits 15..0 are that word; the decoder refuses no word (R61). -/
def decodeTableWord (nbits w : Nat) : Option Instr :=
  some (decodeInstr (BitVec.ofNat 16 (w % 2 ^ nbits)))

/-! ### The encoder (30_encoding.md R64) -/

/-- The opcode field of each instruction (30_encoding.md R57). The NOP word has 1111 there, though it is never read as a
field (R59). -/
def Instr.opcode : Instr → Opcode
  | .add _ _ => 0#4
  | .sub _ _ => 1#4
  | .mul _ _ => 2#4
  | .movi _ _ => 3#4
  | .beqz _ _ => 4#4
  | .andi _ _ => 5#4
  | .eor _ _ => 6#4
  | .br _ _ => 7#4
  | .sal _ _ => 8#4
  | .sar _ _ => 9#4
  | .ldr _ _ => 10#4
  | .str _ _ => 11#4
  | .unrecognized12 _ _ => 12#4
  | .unrecognized13 _ _ => 13#4
  | .unrecognized14 _ _ => 14#4
  | .unrecognized15 _ _ => 15#4
  | .nop => 15#4

/-- The word of a well-formed instruction: `opcode * 4096 + a * 64 + (b mod 64)` (30_encoding.md R64); 0xFFFF for NOP
(45_nop_reserved.md R105). -/
def encode : Instr → Word
  | .nop => Config.nopWord
  | .add r1 r2 => packFields 0#4 r1 r2
  | .sub r1 r2 => packFields 1#4 r1 r2
  | .mul r1 r2 => packFields 2#4 r1 r2
  | .movi r1 imm => packFields 3#4 r1 (lowOfImm imm)
  | .beqz r1 imm => packFields 4#4 r1 (lowOfImm imm)
  | .andi r1 imm => packFields 5#4 r1 (lowOfImm imm)
  | .eor r1 r2 => packFields 6#4 r1 r2
  | .br r1 r2 => packFields 7#4 r1 r2
  | .sal r1 shamt => packFields 8#4 r1 (lowOfImm shamt)
  | .sar r1 shamt => packFields 9#4 r1 (lowOfImm shamt)
  | .ldr r1 imm => packFields 10#4 r1 (lowOfImm imm)
  | .str r1 imm => packFields 11#4 r1 (lowOfImm imm)
  | .unrecognized12 r1 low => packFields 12#4 r1 low
  | .unrecognized13 r1 low => packFields 13#4 r1 low
  | .unrecognized14 r1 low => packFields 14#4 r1 low
  | .unrecognized15 r1 low => packFields 15#4 r1 low

end Sys2Proof
end

