-- ==== Sys2Proof/Machine/Memory.lean ====
section
/-! DEFINITION. The two memories' representation: a list of (address, content) pairs in one canonical form. Both memories are
"zero-initialized" (20_memory.md R30, R31), so an address the list does not name reads as zero. -/

namespace Sys2Proof.Machine

/-- A memory of `w`-bit cells: addresses strictly rising, no listed cell holding zero (`Memory.wf`). For `w = 8` this is a list
of `Host.Cell`. -/
abbrev Memory (w : Nat) := List (Nat × BitVec w)

/-- What an address reads as when no pair names it: the reset content (10_state.md R26). -/
def Memory.unlisted (w : Nat) : BitVec w := 0#w

/-- The content of the cell at address `a`. -/
def Memory.read {w : Nat} (m : Memory w) (a : Nat) : BitVec w :=
  match m with
  | [] => Memory.unlisted w
  | (b, u) :: rest => if a = b then u else Memory.read rest a

/-- `m` with the cell at address `a` set to `v`, in canonical form again: a zero is not listed. -/
def Memory.write {w : Nat} (m : Memory w) (a : Nat) (v : BitVec w) : Memory w :=
  match m with
  | [] => if v = Memory.unlisted w then [] else [(a, v)]
  | (b, u) :: rest =>
    if a < b then (if v = Memory.unlisted w then (b, u) :: rest else (a, v) :: (b, u) :: rest)
    else if a = b then (if v = Memory.unlisted w then rest else (a, v) :: rest)
    else (b, u) :: Memory.write rest a v

/-- The canonical form from address `lo` on: addresses at least `lo`, strictly rising, below `size`, no zero listed. -/
def Memory.wfFrom {w : Nat} (lo size : Nat) (m : Memory w) : Bool :=
  match m with
  | [] => true
  | (b, u) :: rest => decide (lo ≤ b ∧ b < size ∧ u ≠ Memory.unlisted w) && Memory.wfFrom (b + 1) size rest

/-- The canonical form of a memory of `size` cells. -/
def Memory.wf {w : Nat} (size : Nat) (m : Memory w) : Bool := Memory.wfFrom 0 size m

end Sys2Proof.Machine
end

