-- ==== Sys2Proof/Machine/State.lean ====
section
/-! DEFINITION. The state of CORE, whole (10_state.md R10 to R27), its value after reset (R26), and the reasons a step can stop:
this hardware has none (60_exceptions.md R130). -/

namespace Sys2Proof.Machine

/-- SREG: five independent 1-bit flags (10_state.md R17); no architected packing (R21). -/
structure Flags where
  /-- C, Carry -/
  c : Bool
  /-- V, Overflow -/
  v : Bool
  /-- N, Negative -/
  n : Bool
  /-- S, Sign -/
  s : Bool
  /-- Z, Zero -/
  z : Bool
  deriving DecidableEq, Repr

/-- The scheduler state (10_state.md R25, 46_pipeline.md R120). -/
inductive Sched where
  | running
  | draining
  | halted
  deriving DecidableEq, Repr

/-- The machine's state (10_state.md, "There is nothing else"; R27). -/
structure State where
  /-- x[0] to x[63] (R10) -/
  regs : Vector Byte 64
  /-- C, V, N, S, Z (R17) -/
  flags : Flags
  /-- the program counter, a word index (R14) -/
  pc : Word
  /-- instruction memory, 1024 words (20_memory.md R30) -/
  imem : Memory 16
  /-- data memory, 2048 cells (20_memory.md R31) -/
  dmem : Memory 8
  /-- pipeline buffer IF, a raw word (R22) -/
  ifBuf : Word
  /-- pipeline buffer ID, a raw word awaiting decode (R22) -/
  idBuf : Word
  /-- pipeline buffer EX, a decoded instruction (R22, R23) -/
  ex : Decoded
  /-- the skip counter (R24) -/
  skip : Int
  /-- the drain counter (R25) -/
  drain : Nat
  /-- the scheduler state (R25) -/
  sched : Sched
  deriving DecidableEq, Repr

/-- The faults of a step: NONE. The core raises no exception, has no trap and no stuck case (60_exceptions.md R130, R136;
93_implementation_defined.md U9); the two error conditions it detects are reported and execution continues (R132, R133), so
they are outputs (`Diagnostic`), not faults. A closed inductive with no constructor: no step can answer a fault. -/
inductive Fault where
  deriving DecidableEq, Repr

/-- The refusals of a step. -/
inductive Refusal where
  /-- Raised by an arm of `exec` whose instruction has no meaning in the model yet (safe: the run stops). No arm of this model
  raises it: every instruction of spec/opcode_table.json has its meaning. -/
  | notModelled (mnemonic : String)
  deriving DecidableEq, Repr

/-- The machine right after reset (10_state.md R26, 70_reset_and_hazards.md R150). -/
def State.reset : State :=
  { regs := Vector.replicate 64 0x00#8
    flags := { c := false, v := false, n := false, s := false, z := false }
    pc := 0x0000#16
    imem := []
    dmem := []
    ifBuf := Config.nopWord
    idBuf := Config.nopWord
    ex := nopDecoded
    skip := 0
    drain := 0
    sched := .running }

end Sys2Proof.Machine
end

