-- ==== Sys2Proof/Machine/Ops.lean ====
section
/-! DEFINITION. The named operations over registers, flags, program counter, memories and pipeline buffers. Every read and write
of the state goes through them.

TAKING AN EXCEPTION and returning from one have no operation here: the core has no trap entry, no saved register, no vector, no
mode and no return instruction (60_exceptions.md R130, R136, R137, R138). -/

namespace Sys2Proof.Machine

/-! ### The register file: two read ports, one write port (10_state.md R10, R12, R13) -/

/-- `x[r]`. -/
def readReg (s : State) (r : RegIdx) : Byte :=
  s.regs[r.toNat]'(by have := r.isLt; omega)

/-- `x[r] <- v`. No register is hard-wired (10_state.md R10). -/
def writeReg (s : State) (r : RegIdx) (v : Byte) : State :=
  { s with regs := s.regs.set r.toNat v (by have := r.isLt; omega) }

/-! ### Flags, program counter, skip counter, scheduler -/

/-- Replaces the five flags. -/
def setFlags (s : State) (f : Flags) : State := { s with flags := f }

/-- `pc <- target` (10_state.md R15). -/
def setPc (s : State) (target : Word) : State := { s with pc := target }

/-- `skip <- k` (10_state.md R24). -/
def setSkip (s : State) (k : Int) : State := { s with skip := k }

/-- Writes the scheduler state and the drain counter (10_state.md R25). -/
def setSched (s : State) (q : Sched) (d : Nat) : State := { s with sched := q, drain := d }

/-- A flush: `IF <- 0xFFFF ; ID <- 0xFFFF` (46_pipeline.md R117). -/
def flush (s : State) : State := { s with ifBuf := Config.nopWord, idBuf := Config.nopWord }

/-! ### Memories -/

/-- `MemRead(a, 1)` (20_memory.md R31, R38). -/
def readData (s : State) (a : Nat) : Byte := s.dmem.read a

/-- `MemWrite(a, 1, v)` (20_memory.md R31, R38). -/
def writeData (s : State) (a : Nat) (v : Byte) : State := { s with dmem := s.dmem.write a v }

/-- `IMem[a]` (20_memory.md R30). -/
def readInstr (s : State) (a : Nat) : Word := s.imem.read a

/-- Sets one word of instruction memory; the host load port alone does this (20_memory.md R30, R35). -/
def writeInstr (s : State) (a : Nat) (v : Word) : State := { s with imem := s.imem.write a v }

/-! ### Fetch (20_memory.md R33, R34) -/

/-- `FetchEmpty()`: `pc` out of range, or the terminator at `pc`. -/
def fetchEmpty (s : State) : Bool :=
  decide (Config.imemWords ≤ s.pc.toNat ∨ readInstr s s.pc.toNat = Config.termWord)

/-- The word `Fetch()` returns. -/
def fetchedWord (s : State) : Word :=
  if fetchEmpty s then Config.nopWord else readInstr s s.pc.toNat

/-- The program counter `Fetch()` leaves. -/
def fetchedPc (s : State) : Word :=
  if fetchEmpty s then s.pc else s.pc + 1#16

end Sys2Proof.Machine
end

