-- ==== Sys2Proof/Machine/Operands.lean ====
section
/-! DEFINITION. Operand readings and the number conversions of 00_scope.md section 5: `u`, `s`, `trunc_8`, `trunc_16`, and the
operand forms of the instructions. -/

namespace Sys2Proof.Machine

/-- `u(v)`: the unsigned reading, 0 to 255. -/
def uval (v : Byte) : Int := v.toNat

/-- `s(v)`: the two's-complement signed reading, -128 to 127 (10_state.md R11). -/
def sval (v : Byte) : Int := v.toInt

/-- The sign of an 8-bit value: `v[7]`. -/
def signBit (v : Byte) : Bool := v.getLsbD 7

/-- `trunc_8(n)`: `n` modulo 256 as 8 bits. -/
def trunc8 (n : Int) : Byte := BitVec.ofInt 8 n

/-- `trunc_16(n)`: `n` modulo 65536 as 16 bits. -/
def trunc16 (n : Int) : Word := BitVec.ofInt 16 n

/-- The data-memory index of LDR and STR: the immediate read as a signed number, admitted when it names one of the 2048 cells
(20_memory.md R38, 44_load_store.md R102; decision D10). -/
def dataIndex (imm : Byte) : Option Nat :=
  if 0 ≤ sval imm ∧ sval imm ≤ 2047 then some (sval imm).toNat else none

/-- The offset of BEQZ takes the long form: its magnitude exceeds 2 (43_control.md R90; decision D1). -/
def longOffset (imm : Byte) : Bool :=
  decide (Config.beqzShortMax < sval imm ∨ sval imm < -Config.beqzShortMax)

/-- `trunc_16(pc + s(imm) - 2)`: the target of a taken long-form BEQZ (43_control.md R90, 10_state.md R15, R16). -/
def branchTarget (pc : Word) (imm : Byte) : Word :=
  trunc16 ((pc.toNat : Int) + sval imm - 2)

/-- `hi ++ lo`: the target of BR (43_control.md R92). -/
def jumpTarget (hi lo : Byte) : Word := hi ++ lo

end Sys2Proof.Machine
end

