-- ==== Sys2Proof/Machine/Diagnostics.lean ====
section
/-! DEFINITION. The two diagnostic events of the core (60_exceptions.md R132, R133). A diagnostic is an output of one cycle or of one
load-port call, never state (10_state.md R27; decision D19): the execute stage emits it and nothing in the core reads it. -/

namespace Sys2Proof.Machine

/-- Who reported an address out of range (60_exceptions.md R132: two load ports; an executed LDR or STR, told apart as
44_load_store.md R100 and R101 do). -/
inductive AccessSource where
  | loadInstruction
  | loadData
  | ldr
  | str
  deriving DecidableEq, Repr

/-- A diagnostic event with the information it carries (60_exceptions.md R132, R133). -/
inductive Diagnostic where
  /-- *AddressOutOfRange*: the source and the offending address or index (R132) -/
  | addressOutOfRange (source : AccessSource) (address : Int)
  /-- *UnrecognizedOpcode*: the opcode value (R133) -/
  | unrecognizedOpcode (opcode : Opcode)
  deriving DecidableEq, Repr

/-- The report of an LDR or STR whose index is not admitted (44_load_store.md R100 to R102). -/
def indexDiagnostic (source : AccessSource) (imm : Byte) : Option Diagnostic :=
  match dataIndex imm with
  | some _ => none
  | none => some (.addressOutOfRange source (sval imm))

/-- What the execute stage emits when it executes an instruction: at most one event (60_exceptions.md R135). -/
def emitted (i : Instr) : Option Diagnostic :=
  match i with
  | .nop => none
  | .add _ _ => none
  | .sub _ _ => none
  | .mul _ _ => none
  | .movi _ _ => none
  | .beqz _ _ => none
  | .andi _ _ => none
  | .eor _ _ => none
  | .br _ _ => none
  | .sal _ _ => none
  | .sar _ _ => none
  | .ldr _ imm => indexDiagnostic .ldr imm
  | .str _ imm => indexDiagnostic .str imm
  | .unrecognized12 _ _ => some (.unrecognizedOpcode 12#4)
  | .unrecognized13 _ _ => some (.unrecognizedOpcode 13#4)
  | .unrecognized14 _ _ => some (.unrecognizedOpcode 14#4)
  | .unrecognized15 _ _ => some (.unrecognizedOpcode 15#4)

end Sys2Proof.Machine
end

