-- ==== Sys2Proof/Machine/Flags.lean ====
section
/-! DEFINITION. The flag formulas (40_arithmetic.md R71 to R74), the three write patterns of 10_state.md R18, and the packed view
of SREG (R21). -/

namespace Sys2Proof.Machine

/-- Carry: the unsigned 9-bit sum of the operands exceeds 0xFF (40_arithmetic.md R71). -/
def carryFlag (a b : Byte) : Bool := decide (uval a + uval b > 255)

/-- Overflow: the operands share a sign and the result's sign differs from it (40_arithmetic.md R72; for SUB on the operands as
read, decision D23). -/
def overflowFlag (a b r : Byte) : Bool := (signBit a == signBit b) && (signBit r != signBit a)

/-- Negative: bit 7 of the 8-bit result (40_arithmetic.md R73). -/
def negativeFlag (r : Byte) : Bool := signBit r

/-- Zero: the 8-bit result is 0 (40_arithmetic.md R73). -/
def zeroFlag (r : Byte) : Bool := decide (r = 0x00#8)

/-- Sign: N xor V, from the values just computed (40_arithmetic.md R74). -/
def signFlag (n v : Bool) : Bool := n ^^ v

/-- The flags after ADD: all five written (10_state.md R18, 40_arithmetic.md R75). -/
def flagsCVNSZ (a b r : Byte) : Flags :=
  { c := carryFlag a b
    v := overflowFlag a b r
    n := negativeFlag r
    s := signFlag (negativeFlag r) (overflowFlag a b r)
    z := zeroFlag r }

/-- The flags after SUB: C kept, the other four written (10_state.md R18, 40_arithmetic.md R76). -/
def flagsVNSZ (old : Flags) (a b r : Byte) : Flags :=
  { c := old.c
    v := overflowFlag a b r
    n := negativeFlag r
    s := signFlag (negativeFlag r) (overflowFlag a b r)
    z := zeroFlag r }

/-- The flags after MUL, ANDI, EOR, SAL, SAR: N and Z written, C, V and S kept (10_state.md R18). -/
def flagsNZ (old : Flags) (r : Byte) : Flags :=
  { c := old.c
    v := old.v
    n := negativeFlag r
    s := old.s
    z := zeroFlag r }

/-- The packed 8-bit view of SREG, bits 7..0 = 0 0 0 C V N S Z (10_state.md R21, decision D6). A presentation view: no
instruction reads it. -/
def sregByte (f : Flags) : Byte :=
  0b000#3 ++ (BitVec.ofBool f.c ++ BitVec.ofBool f.v ++ BitVec.ofBool f.n ++ BitVec.ofBool f.s ++ BitVec.ofBool f.z)

end Sys2Proof.Machine
end

