-- ==== Sys2Proof/Machine/Alu.lean ====
section
/-! DEFINITION. The Arithmetic/Flag Unit (40_arithmetic.md R70, R78): for each operation its 8-bit result and the five next flag
values, computed from operands read before any write, and the write-back that latches them. -/

namespace Sys2Proof.Machine

/-- The result and the five next flag values of one operation (40_arithmetic.md R78). -/
structure AluOut where
  result : Byte
  flags : Flags
  deriving DecidableEq, Repr

/-- ADD: `trunc_8(u(a) + u(b))` (40_arithmetic.md R75). -/
def aluAdd (a b : Byte) : AluOut :=
  let r := trunc8 (uval a + uval b)
  { result := r, flags := flagsCVNSZ a b r }

/-- SUB: `trunc_8(u(a) - u(b))` (40_arithmetic.md R76). -/
def aluSub (f : Flags) (a b : Byte) : AluOut :=
  let r := trunc8 (uval a - uval b)
  { result := r, flags := flagsVNSZ f a b r }

/-- MUL: `trunc_8(s(a) * s(b))` (40_arithmetic.md R77; decision D9). -/
def aluMul (f : Flags) (a b : Byte) : AluOut :=
  let r := trunc8 (sval a * sval b)
  { result := r, flags := flagsNZ f r }

/-- MOVI: the immediate; no flag written (41_move_logic.md R80). -/
def aluMovi (f : Flags) (imm : Byte) : AluOut :=
  { result := imm, flags := f }

/-- ANDI: bitwise and with the immediate (41_move_logic.md R81). -/
def aluAndi (f : Flags) (a imm : Byte) : AluOut :=
  let r := a &&& imm
  { result := r, flags := flagsNZ f r }

/-- EOR: bitwise exclusive or (41_move_logic.md R82). -/
def aluEor (f : Flags) (a b : Byte) : AluOut :=
  let r := a ^^^ b
  { result := r, flags := flagsNZ f r }

/-- SAL: `trunc_8(u(a) * 2^shamt)`, 0 from a count of 8 on (42_shift.md R85; decision D7). -/
def aluSal (f : Flags) (a shamt : Byte) : AluOut :=
  let r := trunc8 (uval a * 2 ^ shamt.toNat)
  { result := r, flags := flagsNZ f r }

/-- SAR: `trunc_8(floor(s(a) / 2^min(shamt, 7)))`, sign-filling (42_shift.md R86; decision D8). `Int`'s division by a positive
number rounds toward minus infinity. -/
def aluSar (f : Flags) (a shamt : Byte) : AluOut :=
  let r := trunc8 (sval a / 2 ^ min shamt.toNat 7)
  { result := r, flags := flagsNZ f r }

/-- The write-back of the execute stage: the result into the register `r`, the next flags into SREG, after all reads
(40_arithmetic.md R70, R78). -/
def latchAlu (s : State) (r : RegIdx) (o : AluOut) : State :=
  setFlags (writeReg s r o.result) o.flags

/-! ### The block interface (40_arithmetic.md R78, decision D17) -/

/-- The outputs of the block. `result` is `none` where the block supplies no result: for LDR the destination's value comes from
data memory, and the other opcodes write no register. -/
structure AluPorts where
  result : Option Byte
  resultWrite : Bool
  flags : Flags
  deriving DecidableEq, Repr

/-- One of the eight operations' outputs on the block's ports. -/
def aluPortsOf (o : AluOut) : AluPorts :=
  { result := some o.result, resultWrite := true, flags := o.flags }

/-- The block: `op`, `a` = x[r1], `b` = x[r2], `imm` and the current flags in; `result`, `result_write` (1 for the nine
register-writing opcodes) and the five next flags out, a flag the opcode does not write passed through (40_arithmetic.md R78). -/
def aluBlock (op : Opcode) (a b imm : Byte) (f : Flags) : AluPorts :=
  match op.toNat with
  | 0 => aluPortsOf (aluAdd a b)
  | 1 => aluPortsOf (aluSub f a b)
  | 2 => aluPortsOf (aluMul f a b)
  | 3 => aluPortsOf (aluMovi f imm)
  | 5 => aluPortsOf (aluAndi f a imm)
  | 6 => aluPortsOf (aluEor f a b)
  | 8 => aluPortsOf (aluSal f a imm)
  | 9 => aluPortsOf (aluSar f a imm)
  | 10 => { result := none, resultWrite := true, flags := f }
  | _ => { result := none, resultWrite := false, flags := f }

end Sys2Proof.Machine
end

