-- ==== Sys2Proof/Machine/Arithmetic.lean ====
section
/-! DEFINITION. The meanings of ADD, SUB and MUL in the execute stage (40_arithmetic.md R75 to R77). -/

namespace Sys2Proof.Machine

/-- ADD r1 r2 (40_arithmetic.md R75). -/
def execAdd (r1 r2 : RegIdx) (s : State) : Host.Outcome State Fault Refusal :=
  .next (latchAlu s r1 (aluAdd (readReg s r1) (readReg s r2)))

/-- SUB r1 r2 (40_arithmetic.md R76). -/
def execSub (r1 r2 : RegIdx) (s : State) : Host.Outcome State Fault Refusal :=
  .next (latchAlu s r1 (aluSub s.flags (readReg s r1) (readReg s r2)))

/-- MUL r1 r2 (40_arithmetic.md R77). -/
def execMul (r1 r2 : RegIdx) (s : State) : Host.Outcome State Fault Refusal :=
  .next (latchAlu s r1 (aluMul s.flags (readReg s r1) (readReg s r2)))

end Sys2Proof.Machine
end

