-- ==== Sys2Proof/Machine/Control.lean ====
section
/-! DEFINITION. The meanings of BEQZ and BR in the execute stage (43_control.md R90, R92). When they run, `pc` already points past
the words in ID and IF (46_pipeline.md R111). -/

namespace Sys2Proof.Machine

/-- The long form of a taken BEQZ: `pc` moved, IF and ID flushed, the skip counter loaded with 2 (43_control.md R90;
decisions D1, D2, D14). -/
def takeLongBranch (s : State) (imm : Byte) : State :=
  setSkip (flush (setPc s (branchTarget s.pc imm))) Config.flushCount

/-- The short form of a taken BEQZ: the skip counter loaded with the offset (43_control.md R90; decision D15). -/
def takeShortBranch (s : State) (imm : Byte) : State :=
  setSkip s (sval imm)

/-- BEQZ r1 imm (43_control.md R90): it tests the register, not the Z flag. -/
def execBeqz (r1 : RegIdx) (imm : Byte) (s : State) : Host.Outcome State Fault Refusal :=
  .next
    (if readReg s r1 = 0x00#8 then
      (if longOffset imm then takeLongBranch s imm else takeShortBranch s imm)
    else s)

/-- BR r1 r2 (43_control.md R92; decision D11). -/
def execBr (r1 r2 : RegIdx) (s : State) : Host.Outcome State Fault Refusal :=
  .next (flush (setPc s (jumpTarget (readReg s r1) (readReg s r2))))

end Sys2Proof.Machine
end

