-- ==== Sys2Proof/Machine/LoadStore.lean ====
section
/-! DEFINITION. The meanings of LDR and STR in the execute stage (44_load_store.md R100 to R102). An index outside the memory drops
the access; the report is the cycle's output (Machine/Diagnostics.lean). -/

namespace Sys2Proof.Machine

/-- LDR r1 imm (44_load_store.md R100). -/
def execLdr (r1 : RegIdx) (imm : Byte) (s : State) : Host.Outcome State Fault Refusal :=
  .next
    (match dataIndex imm with
    | some a => writeReg s r1 (readData s a)
    | none => s)

/-- STR r1 imm (44_load_store.md R101). -/
def execStr (r1 : RegIdx) (imm : Byte) (s : State) : Host.Outcome State Fault Refusal :=
  .next
    (match dataIndex imm with
    | some a => writeData s a (readReg s r1)
    | none => s)

end Sys2Proof.Machine
end

