-- ==== Sys2Proof/Machine/MoveLogic.lean ====
section
/-! DEFINITION. The meanings of MOVI, ANDI and EOR in the execute stage (41_move_logic.md R80 to R82). -/

namespace Sys2Proof.Machine

/-- MOVI r1 imm (41_move_logic.md R80). -/
def execMovi (r1 : RegIdx) (imm : Byte) (s : State) : Host.Outcome State Fault Refusal :=
  .next (latchAlu s r1 (aluMovi s.flags imm))

/-- ANDI r1 imm (41_move_logic.md R81). -/
def execAndi (r1 : RegIdx) (imm : Byte) (s : State) : Host.Outcome State Fault Refusal :=
  .next (latchAlu s r1 (aluAndi s.flags (readReg s r1) imm))

/-- EOR r1 r2 (41_move_logic.md R82). -/
def execEor (r1 r2 : RegIdx) (s : State) : Host.Outcome State Fault Refusal :=
  .next (latchAlu s r1 (aluEor s.flags (readReg s r1) (readReg s r2)))

end Sys2Proof.Machine
end

