-- ==== Sys2Proof/Machine/NopReserved.lean ====
section
/-! DEFINITION. The meanings of the NOP word and of the four unrecognized opcodes in the execute stage (45_nop_reserved.md R105,
R106): no state changes. The report of an unrecognized opcode is the cycle's output (Machine/Diagnostics.lean). -/

namespace Sys2Proof.Machine

/-- NOP, the word 0xFFFF (45_nop_reserved.md R105). -/
def execNop (s : State) : Host.Outcome State Fault Refusal := .next s

/-- A word with opcode 12 (45_nop_reserved.md R106). -/
def execUnrecognized12 (_r1 _low : RegIdx) (s : State) : Host.Outcome State Fault Refusal := .next s

/-- A word with opcode 13 (45_nop_reserved.md R106). -/
def execUnrecognized13 (_r1 _low : RegIdx) (s : State) : Host.Outcome State Fault Refusal := .next s

/-- A word with opcode 14 (45_nop_reserved.md R106). -/
def execUnrecognized14 (_r1 _low : RegIdx) (s : State) : Host.Outcome State Fault Refusal := .next s

/-- A word with opcode 15 other than 0xFFFF (45_nop_reserved.md R106). -/
def execUnrecognized15 (_r1 _low : RegIdx) (s : State) : Host.Outcome State Fault Refusal := .next s

end Sys2Proof.Machine
end

