-- ==== Sys2Proof/Machine/Shift.lean ====
section
/-! DEFINITION. The meanings of SAL and SAR in the execute stage (42_shift.md R85, R86). -/

namespace Sys2Proof.Machine

/-- SAL r1 shamt (42_shift.md R85). -/
def execSal (r1 : RegIdx) (shamt : Byte) (s : State) : Host.Outcome State Fault Refusal :=
  .next (latchAlu s r1 (aluSal s.flags (readReg s r1) shamt))

/-- SAR r1 shamt (42_shift.md R86). -/
def execSar (r1 : RegIdx) (shamt : Byte) (s : State) : Host.Outcome State Fault Refusal :=
  .next (latchAlu s r1 (aluSar s.flags (readReg s r1) shamt))

end Sys2Proof.Machine
end

