-- ==== Sys2Proof/Machine/Dispatch.lean ====
section
/-! DEFINITION. Dispatch: the execute stage's meaning of each instruction (46_pipeline.md R115). -/

namespace Sys2Proof.Machine

/-- `Execute(d)` (46_pipeline.md R115): what an instruction does in phase 3 of its cycle. -/
def exec (i : Instr) (s : State) : Host.Outcome State Fault Refusal :=
  match i with
  | .nop => Sys2Proof.Machine.execNop s
  | .add r1 r2 => Sys2Proof.Machine.execAdd r1 r2 s
  | .sub r1 r2 => Sys2Proof.Machine.execSub r1 r2 s
  | .mul r1 r2 => Sys2Proof.Machine.execMul r1 r2 s
  | .movi r1 imm => Sys2Proof.Machine.execMovi r1 imm s
  | .beqz r1 imm => Sys2Proof.Machine.execBeqz r1 imm s
  | .andi r1 imm => Sys2Proof.Machine.execAndi r1 imm s
  | .eor r1 r2 => Sys2Proof.Machine.execEor r1 r2 s
  | .br r1 r2 => Sys2Proof.Machine.execBr r1 r2 s
  | .sal r1 shamt => Sys2Proof.Machine.execSal r1 shamt s
  | .sar r1 shamt => Sys2Proof.Machine.execSar r1 shamt s
  | .ldr r1 imm => Sys2Proof.Machine.execLdr r1 imm s
  | .str r1 imm => Sys2Proof.Machine.execStr r1 imm s
  | .unrecognized12 r1 low => Sys2Proof.Machine.execUnrecognized12 r1 low s
  | .unrecognized13 r1 low => Sys2Proof.Machine.execUnrecognized13 r1 low s
  | .unrecognized14 r1 low => Sys2Proof.Machine.execUnrecognized14 r1 low s
  | .unrecognized15 r1 low => Sys2Proof.Machine.execUnrecognized15 r1 low s

end Sys2Proof.Machine
end

