-- ==== Sys2Proof/Machine/Scheduler.lean ====
section
/-! DEFINITION. The phases of a cycle other than the execute stage (46_pipeline.md R110): the shift with its fetch (R112), drain start
or cancel (R113), and the drain countdown (R118). -/

namespace Sys2Proof.Machine

/-- Phase 1, the shift: `EX <- Decode(ID)`, `ID <- IF`, `IF <- Fetch()`, on the old values (46_pipeline.md R112). -/
def shiftPhase (s : State) : State :=
  { s with
    pc := fetchedPc s
    ex := decode s.idBuf
    idBuf := s.ifBuf
    ifBuf := fetchedWord s }

/-- Phase 2, drain start or cancel, on the word `w` this cycle's fetch returned (46_pipeline.md R113; decision D13). -/
def drainPhase (w : Word) (s : State) : State :=
  if w = Config.nopWord then
    (if s.sched = .running then setSched s .draining Config.drainCycles else s)
  else setSched s .running 0

/-- Phase 4, the drain countdown, with the `pc` that phase 3 left (46_pipeline.md R118; decisions D12, D13). -/
def countdownPhase (s : State) : State :=
  if s.sched = .draining then
    (if s.drain - 1 = 0 then setSched s (if fetchEmpty s then .halted else .running) 0
    else setSched s .draining (s.drain - 1))
  else s

/-- Phases 1 and 2: the state the execute stage finds (46_pipeline.md R111). -/
def beforeExecute (s : State) : State := drainPhase (fetchedWord s) (shiftPhase s)

end Sys2Proof.Machine
end

