-- ==== Sys2Proof/Machine/Cycle.lean ====
section
/-! DEFINITION. One clock cycle (46_pipeline.md R110): the execute gate (R114), the four phases in order, what the cycle emits, and the
clock edge with its reset input (R125). -/

namespace Sys2Proof.Machine

/-- Applies a later phase to the next state of an outcome. -/
def afterNext (f : State → State) (o : Host.Outcome State Fault Refusal) : Host.Outcome State Fault Refusal :=
  match o with
  | .next s => .next (f s)
  | .fault r => .fault r
  | .refused r => .refused r

/-- Phase 3, the execute gate (46_pipeline.md R114): a positive skip counter is decremented and EX is elided; otherwise the
instruction in EX executes (a NOP tag does nothing). -/
def executePhase (s : State) : Host.Outcome State Fault Refusal :=
  if 0 < s.skip then .next (setSkip s (s.skip - 1)) else exec s.ex.instr s

/-- `Cycle()`: the four phases (46_pipeline.md R110). -/
def cycle (s : State) : Host.Outcome State Fault Refusal :=
  afterNext countdownPhase (executePhase (beforeExecute s))

/-- The machine's step: a cycle while RUNNING or DRAINING; in HALTED no cycle is taken and nothing changes
(46_pipeline.md R110, R119). -/
def coreStep (s : State) : Host.Outcome State Fault Refusal :=
  if s.sched = .halted then .next s else cycle s

/-- The instruction whose execute stage runs in the next cycle, if one does: none when HALTED or elided
(46_pipeline.md R110, R114). -/
def executing (s : State) : Option Instr :=
  if s.sched = .halted ∨ 0 < s.skip then none else some (decodeInstr s.idBuf)

/-- The diagnostic event of the next cycle (46_pipeline.md R125, 60_exceptions.md R132, R133): what the executed instruction emits;
an elided cycle and a halted core emit nothing (decision D19). -/
def cycleDiagnostic (s : State) : Option Diagnostic :=
  (executing s).bind emitted

/-- A rising clock edge: with `reset` every piece of state goes to its reset value, otherwise the machine steps
(46_pipeline.md R125, 70_reset_and_hazards.md R150). -/
def clockEdge (resetInput : Bool) (s : State) : Host.Outcome State Fault Refusal :=
  if resetInput then .next State.reset else coreStep s

end Sys2Proof.Machine
end

