-- ==== Sys2Proof/Machine/Step.lean ====
section
/-! DEFINITION. The step the host runs, and where the host places a word so that the next step runs it. -/

namespace Sys2Proof.Machine

/-- One step: one clock cycle with `reset` low (46_pipeline.md R110, R119, R125). -/
def step (s : State) : Host.Outcome State Fault Refusal := coreStep s

/-- `s` with the instruction word `w` where the very next step decodes and executes it: the ID buffer (46_pipeline.md R110: a
cycle executes `Decode(ID)`). A halted core is set running and a positive skip counter to 0, since either would keep that step
from executing it; nothing else changes. -/
def State.withFetchWord (s : State) (nbits w : Nat) : State :=
  { s with
    idBuf := BitVec.ofNat 16 (w % 2 ^ nbits)
    skip := if 0 < s.skip then 0 else s.skip
    sched := if s.sched = .halted then .running else s.sched }

end Sys2Proof.Machine
end

