-- ==== Sys2Proof/Machine/HostPorts.lean ====
section
/-! DEFINITION. The host's side of the core: the two load ports (20_memory.md R35, R36), how a program and data are loaded
(70_reset_and_hazards.md R151, R152), and what the host reads after HALTED (R153). The host uses the ports between reset and the
first cycle only (20_memory.md R37). -/

namespace Sys2Proof.Machine

/-- `load_instruction(addr, value)` (20_memory.md R35): the word written, or the write dropped and reported. -/
def loadInstruction (addr value : Nat) (s : State) : State × Option Diagnostic :=
  if addr < Config.imemWords then (writeInstr s addr (BitVec.ofNat 16 value), none)
  else (s, some (.addressOutOfRange .loadInstruction addr))

/-- `load_data(addr, value)` (20_memory.md R36): the cell set to `value[7:0]`, or the write dropped and reported. -/
def loadData (addr value : Nat) (s : State) : State × Option Diagnostic :=
  if addr < Config.dmemCells then (writeData s addr (BitVec.ofNat 8 value), none)
  else (s, some (.addressOutOfRange .loadData addr))

/-- Loads words in order from an address on: word `k` of the list at `addr + k` (70_reset_and_hazards.md R152). -/
def loadWordsFrom (addr : Nat) (words : List Nat) (s : State) : State :=
  match words with
  | [] => s
  | w :: rest => loadWordsFrom (addr + 1) rest (loadInstruction addr w s).1

/-- Loads data cells, each a pair of address and value (70_reset_and_hazards.md R152). -/
def loadCells (cells : List (Nat × Nat)) (s : State) : State :=
  match cells with
  | [] => s
  | c :: rest => loadCells rest (loadData c.1 c.2 s).1

/-- The launch state of a run: reset, then the program "in order starting at instruction address 0", then data
(70_reset_and_hazards.md R151, R152). -/
def launch (program : List Nat) (data : List (Nat × Nat)) : State :=
  loadCells data (loadWordsFrom 0 program State.reset)

/-- The `halted` output (46_pipeline.md R125). -/
def halted (s : State) : Bool := decide (s.sched = .halted)

/-- The result of a run: registers, flags, `pc` and data memory (70_reset_and_hazards.md R153). -/
structure RunResult where
  regs : Vector Byte 64
  flags : Flags
  pc : Word
  dmem : Memory 8
  deriving DecidableEq, Repr

/-- What the host reads: a result once HALTED, none before (70_reset_and_hazards.md R153, 46_pipeline.md R119). -/
def runResult (s : State) : Option RunResult :=
  if halted s then some { regs := s.regs, flags := s.flags, pc := s.pc, dmem := s.dmem } else none

end Sys2Proof.Machine
end

