-- ==== Sys2Proof/Safety.lean ====
section
/-! DEFINITION. The terms claims are stated in: what two states have in common, which states a run starts from, the invariant between
cycles, and what counts as a silent run. A run of this hardware never stops by a fault, so safety here is the absence of
diagnostic events (93_implementation_defined.md U1, U2, U3). -/

namespace Sys2Proof.Machine

/-! ### What a step leaves alone -/

/-- Every register reads as before. -/
def RegsKept (s t : State) : Prop := ∀ r, readReg t r = readReg s r

/-- Every register but `r` reads as before. -/
def RegsKeptBut (r : RegIdx) (s t : State) : Prop := ∀ r', r' ≠ r → readReg t r' = readReg s r'

/-- Every cell of data memory reads as before. -/
def DataKept (s t : State) : Prop := ∀ a, readData t a = readData s a

/-- Every cell of data memory but the one at address `a` reads as before. -/
def DataKeptBut (a : Nat) (s t : State) : Prop := ∀ a', a' ≠ a → readData t a' = readData s a'

/-- Every word of instruction memory reads as before. -/
def CodeKept (s t : State) : Prop := ∀ a, readInstr t a = readInstr s a

/-- The EX buffer and the scheduler's two fields are as before: no instruction writes them. -/
def SchedulerKept (s t : State) : Prop := t.ex = s.ex ∧ t.drain = s.drain ∧ t.sched = s.sched

/-- `pc`, the raw buffers and the skip counter are as before: only BEQZ and BR write them in the execute stage. -/
def ControlKept (s t : State) : Prop :=
  t.pc = s.pc ∧ t.ifBuf = s.ifBuf ∧ t.idBuf = s.idBuf ∧ t.skip = s.skip

/-- The two states agree on everything a program or the host can observe of a run: registers, flags, `pc`, both memories, and the
scheduler's progress (46_pipeline.md R117, 70_reset_and_hazards.md R153). -/
def SameArch (s t : State) : Prop :=
  s.regs = t.regs ∧ s.flags = t.flags ∧ s.pc = t.pc ∧ s.imem = t.imem ∧ s.dmem = t.dmem ∧
    s.sched = t.sched ∧ s.drain = t.drain

/-- The register an instruction writes, if any (10_state.md R12): always the one its `r1` field names. An LDR whose access is
dropped leaves it as it was (44_load_store.md R100). -/
def destination (i : Instr) : Option RegIdx :=
  match i with
  | .nop => none
  | .add r1 _ => some r1
  | .sub r1 _ => some r1
  | .mul r1 _ => some r1
  | .movi r1 _ => some r1
  | .beqz _ _ => none
  | .andi r1 _ => some r1
  | .eor r1 _ => some r1
  | .br _ _ => none
  | .sal r1 _ => some r1
  | .sar r1 _ => some r1
  | .ldr r1 _ => some r1
  | .str _ _ => none
  | .unrecognized12 _ _ => none
  | .unrecognized13 _ _ => none
  | .unrecognized14 _ _ => none
  | .unrecognized15 _ _ => none

/-- In a state, an instruction flushes the two younger words when it executes: BR always, BEQZ when taken in the long form
(46_pipeline.md R117). -/
def Flushes (s : State) (i : Instr) : Prop :=
  (∃ r1 r2, i = .br r1 r2) ∨
  (∃ r1 imm, i = .beqz r1 imm ∧ readReg s r1 = 0x00#8 ∧ (3 ≤ imm.toInt ∨ imm.toInt ≤ -3))

/-! ### States a run starts from (70_reset_and_hazards.md R151) -/

/-- The reset state changed only by load-port calls. -/
inductive LaunchState : State → Prop where
  | reset : LaunchState State.reset
  | loadInstruction (addr value : Nat) {s : State} : LaunchState s → LaunchState (loadInstruction addr value s).1
  | loadData (addr value : Nat) {s : State} : LaunchState s → LaunchState (loadData addr value s).1

/-! ### The invariant between cycles -/

/-- Both memories are in canonical form, inside their address spaces (20_memory.md R30, R31). -/
def MemoriesWf (s : State) : Prop :=
  s.imem.wf Config.imemWords = true ∧ s.dmem.wf Config.dmemCells = true

/-- What the scheduler's fields and the buffers look like at the end of a cycle (10_state.md R25; 46_pipeline.md R113, R118): the
drain counter is 1 while DRAINING and 0 otherwise; a draining core has the sentinel in IF; a halted core has it in IF and ID
and fetches nothing. -/
def SchedulerShape (s : State) : Prop :=
  (s.sched = .running → s.drain = 0) ∧
  (s.sched = .draining → s.drain = 1 ∧ s.ifBuf = 0xFFFF#16) ∧
  (s.sched = .halted → s.drain = 0 ∧ s.ifBuf = 0xFFFF#16 ∧ s.idBuf = 0xFFFF#16 ∧ fetchEmpty s = true)

/-- The invariant: canonical memories, EX holding the decoding of some word (10_state.md R22, R23), the skip counter in -2 .. 2
(R24), and the scheduler's shape. -/
def MachineInv (s : State) : Prop :=
  MemoriesWf s ∧ (∃ w, s.ex = decode w) ∧ (-2 ≤ s.skip ∧ s.skip ≤ 2) ∧ SchedulerShape s

/-! ### Runs -/

/-- `n` steps. It is the host's own run of this core (`Laws.runCycles_eq_core_run`), written over `State` itself. -/
def runCycles (n : Nat) (s : State) : Host.Outcome State Fault Refusal :=
  match n with
  | 0 => .next s
  | k + 1 =>
    match step s with
    | .next t => runCycles k t
    | .fault r => .fault r
    | .refused r => .refused r

/-! ### Silent runs (93_implementation_defined.md U1, U2) -/

/-- The diagnostic events of the next `n` cycles, in order (60_exceptions.md R135: at most one a cycle). -/
def diagnosticsOf (n : Nat) (s : State) : List Diagnostic :=
  match n with
  | 0 => []
  | k + 1 =>
    (cycleDiagnostic s).toList ++
      (match step s with
      | .next t => diagnosticsOf k t
      | .fault _ => []
      | .refused _ => [])

/-- The next `n` cycles emit no diagnostic event: the runs a claim meant for the original hardware is about. -/
def SilentRun (n : Nat) (s : State) : Prop := diagnosticsOf n s = []

end Sys2Proof.Machine
end

