-- ==== Sys2Proof/Certificates/Slice0/Obligations.lean ====
section
/-! DEFINITION. The statements for the provers. Each docstring names the rule of spec/ it formalises. A decision D<n> is a choice of
spec/92_eei_decisions.md that the spec marks as its own; a statement that rests on one says so. -/

open Sys2Proof Sys2Proof.Machine

/-! ### The instructions: next state, result, flags, and what is left alone -/

/-- ADD (40_arithmetic.md section 2). N and Z are taken from the 8-bit result: decision D24, the spec's own choice. -/
def Obligations.AddWritesSumAndAllFlags : Prop :=
  ∀ (r1 r2 : RegIdx) (s : State), ∃ t,
    exec (.add r1 r2) s = .next t ∧
    encode (.add r1 r2) = 0#4 ++ r1 ++ r2 ∧
    readReg t r1 = readReg s r1 + readReg s r2 ∧ RegsKeptBut r1 s t ∧
    t.flags.c = decide (255 < (readReg s r1).toNat + (readReg s r2).toNat) ∧
    (t.flags.v = true ↔ (readReg s r1).msb = (readReg s r2).msb ∧ (readReg t r1).msb ≠ (readReg s r1).msb) ∧
    t.flags.n = (readReg t r1).msb ∧ t.flags.z = decide (readReg t r1 = 0#8) ∧
    t.flags.s = (t.flags.n ^^ t.flags.v) ∧
    ControlKept s t ∧ SchedulerKept s t ∧ DataKept s t ∧ CodeKept s t

/-- SUB (40_arithmetic.md section 2): C kept. V reads the formula literally (decision D23), N and Z come from the 8-bit result
(decision D24): both the spec's own choices. -/
def Obligations.SubWritesDifferenceAndKeepsCarry : Prop :=
  ∀ (r1 r2 : RegIdx) (s : State), ∃ t,
    exec (.sub r1 r2) s = .next t ∧
    encode (.sub r1 r2) = 1#4 ++ r1 ++ r2 ∧
    readReg t r1 = readReg s r1 - readReg s r2 ∧ RegsKeptBut r1 s t ∧
    t.flags.c = s.flags.c ∧
    (t.flags.v = true ↔ (readReg s r1).msb = (readReg s r2).msb ∧ (readReg t r1).msb ≠ (readReg s r1).msb) ∧
    t.flags.n = (readReg t r1).msb ∧ t.flags.z = decide (readReg t r1 = 0#8) ∧
    t.flags.s = (t.flags.n ^^ t.flags.v) ∧
    ControlKept s t ∧ SchedulerKept s t ∧ DataKept s t ∧ CodeKept s t

/-- MUL (40_arithmetic.md sections 2 and 4): the low 8 bits of the product (decision D9, the spec's own choice), the same bits for
the signed and the unsigned product; N and Z from them (D24); C, V, S kept. -/
def Obligations.MulWritesLowByteOfEitherProduct : Prop :=
  ∀ (r1 r2 : RegIdx) (s : State), ∃ t,
    exec (.mul r1 r2) s = .next t ∧
    encode (.mul r1 r2) = 2#4 ++ r1 ++ r2 ∧
    readReg t r1 = BitVec.ofInt 8 ((readReg s r1).toInt * (readReg s r2).toInt) ∧
    readReg t r1 = BitVec.ofNat 8 ((readReg s r1).toNat * (readReg s r2).toNat) ∧ RegsKeptBut r1 s t ∧
    t.flags.c = s.flags.c ∧ t.flags.v = s.flags.v ∧ t.flags.s = s.flags.s ∧
    t.flags.n = (readReg t r1).msb ∧ t.flags.z = decide (readReg t r1 = 0#8) ∧
    ControlKept s t ∧ SchedulerKept s t ∧ DataKept s t ∧ CodeKept s t

/-- MOVI (41_move_logic.md R80): every value of the 6-bit field, sign-extended; no flag written. -/
def Obligations.MoviLoadsSignedImmediate : Prop :=
  ∀ (r1 low : RegIdx) (s : State), ∃ t,
    exec (.movi r1 (signedImm low)) s = .next t ∧
    encode (.movi r1 (signedImm low)) = 3#4 ++ r1 ++ low ∧
    readReg t r1 = low.signExtend 8 ∧ (readReg t r1).toInt = low.toInt ∧ RegsKeptBut r1 s t ∧
    t.flags = s.flags ∧
    ControlKept s t ∧ SchedulerKept s t ∧ DataKept s t ∧ CodeKept s t

/-- ANDI (41_move_logic.md R81): and with the sign-extended field; N, Z written, C, V, S kept. -/
def Obligations.AndiMasksWithSignedImmediate : Prop :=
  ∀ (r1 low : RegIdx) (s : State), ∃ t,
    exec (.andi r1 (signedImm low)) s = .next t ∧
    encode (.andi r1 (signedImm low)) = 5#4 ++ r1 ++ low ∧
    readReg t r1 = readReg s r1 &&& low.signExtend 8 ∧ RegsKeptBut r1 s t ∧
    t.flags.c = s.flags.c ∧ t.flags.v = s.flags.v ∧ t.flags.s = s.flags.s ∧
    t.flags.n = (readReg t r1).msb ∧ t.flags.z = decide (readReg t r1 = 0#8) ∧
    ControlKept s t ∧ SchedulerKept s t ∧ DataKept s t ∧ CodeKept s t

/-- EOR (41_move_logic.md R82): exclusive or, so that `r1 = r2` clears the register; N, Z written, C, V, S kept. -/
def Obligations.EorXorsTwoRegisters : Prop :=
  ∀ (r1 r2 : RegIdx) (s : State), ∃ t,
    exec (.eor r1 r2) s = .next t ∧
    encode (.eor r1 r2) = 6#4 ++ r1 ++ r2 ∧
    readReg t r1 = readReg s r1 ^^^ readReg s r2 ∧ (r1 = r2 → readReg t r1 = 0#8) ∧ RegsKeptBut r1 s t ∧
    t.flags.c = s.flags.c ∧ t.flags.v = s.flags.v ∧ t.flags.s = s.flags.s ∧
    t.flags.n = (readReg t r1).msb ∧ t.flags.z = decide (readReg t r1 = 0#8) ∧
    ControlKept s t ∧ SchedulerKept s t ∧ DataKept s t ∧ CodeKept s t

/-- SAL (42_shift.md, SAL): every count 0 to 63; 0 from 8 on (decision D7); N and Z from the 8-bit result (D24); both the spec's
own choices. C not written. -/
def Obligations.SalShiftsLeftWithZeros : Prop :=
  ∀ (r1 low : RegIdx) (s : State), ∃ t,
    exec (.sal r1 (shiftImm low)) s = .next t ∧
    encode (.sal r1 (shiftImm low)) = 8#4 ++ r1 ++ low ∧
    readReg t r1 = readReg s r1 <<< low.toNat ∧ (8 ≤ low.toNat → readReg t r1 = 0#8) ∧ RegsKeptBut r1 s t ∧
    t.flags.c = s.flags.c ∧ t.flags.v = s.flags.v ∧ t.flags.s = s.flags.s ∧
    t.flags.n = (readReg t r1).msb ∧ t.flags.z = decide (readReg t r1 = 0#8) ∧
    ControlKept s t ∧ SchedulerKept s t ∧ DataKept s t ∧ CodeKept s t

/-- SAR (42_shift.md, SAR): every count 0 to 63, sign-filling, all sign bits from 7 on (decision D8, the spec's own choice). N after
SAR is the sign the register had before; N and Z from the 8-bit result are decision D24, the spec's own choice. -/
def Obligations.SarShiftsRightWithSignFill : Prop :=
  ∀ (r1 low : RegIdx) (s : State), ∃ t,
    exec (.sar r1 (shiftImm low)) s = .next t ∧
    encode (.sar r1 (shiftImm low)) = 9#4 ++ r1 ++ low ∧
    readReg t r1 = (readReg s r1).sshiftRight low.toNat ∧
    (7 ≤ low.toNat → readReg t r1 = if (readReg s r1).msb then 0xFF#8 else 0x00#8) ∧ RegsKeptBut r1 s t ∧
    t.flags.c = s.flags.c ∧ t.flags.v = s.flags.v ∧ t.flags.s = s.flags.s ∧
    t.flags.n = (readReg s r1).msb ∧ t.flags.z = decide (readReg t r1 = 0#8) ∧
    ControlKept s t ∧ SchedulerKept s t ∧ DataKept s t ∧ CodeKept s t

/-- LDR (44_load_store.md, LDR): every value of the field. A field of 32 or more is a negative index: the read is dropped and reported
(decision D10); the report is an event and not state (D19): both the spec's own choices. The event's form is log 2 (DEDUCED). -/
def Obligations.LdrLoadsCellOrDropsAndReports : Prop :=
  ∀ (r1 low : RegIdx) (s : State), ∃ t,
    exec (.ldr r1 (signedImm low)) s = .next t ∧
    encode (.ldr r1 (signedImm low)) = 10#4 ++ r1 ++ low ∧
    (if 0 ≤ low.toInt then
      readReg t r1 = readData s low.toNat ∧ RegsKeptBut r1 s t ∧ emitted (.ldr r1 (signedImm low)) = none
    else
      RegsKept s t ∧ emitted (.ldr r1 (signedImm low)) = some (.addressOutOfRange .ldr low.toInt)) ∧
    t.flags = s.flags ∧
    ControlKept s t ∧ SchedulerKept s t ∧ DataKept s t ∧ CodeKept s t

/-- STR (44_load_store.md, STR): every value of the field, the address stored to computed as the meaning computes it. A negative index
drops the write and reports it (decision D10); the report is an event and not state (D19): both the spec's own choices. The event's
form is log 2 (DEDUCED), the memories' canonical form log 7 (DESIGN CHOICE). -/
def Obligations.StrStoresCellOrDropsAndReports : Prop :=
  ∀ (r1 low : RegIdx) (s : State), MemoriesWf s → ∃ t,
    exec (.str r1 (signedImm low)) s = .next t ∧
    encode (.str r1 (signedImm low)) = 11#4 ++ r1 ++ low ∧
    dataIndex (signedImm low) = (if 0 ≤ low.toInt then some low.toNat else none) ∧
    (∀ a, dataIndex (signedImm low) = some a →
      readData t a = readReg s r1 ∧ DataKeptBut a s t ∧ emitted (.str r1 (signedImm low)) = none) ∧
    (dataIndex (signedImm low) = none →
      DataKept s t ∧ emitted (.str r1 (signedImm low)) = some (.addressOutOfRange .str low.toInt)) ∧
    RegsKept s t ∧ t.flags = s.flags ∧
    ControlKept s t ∧ SchedulerKept s t ∧ CodeKept s t ∧ MemoriesWf t

/-- BEQZ (43_control.md section 1): every value of the field, not taken, taken long, taken short. The long form by the magnitude of
the offset is decision D1, the wrap of `pc` D2, the flush D14, the counter's assignment D15: the spec's own choices. -/
def Obligations.BeqzBranchesLongShortOrNot : Prop :=
  ∀ (r1 low : RegIdx) (s : State), ∃ t,
    exec (.beqz r1 (signedImm low)) s = .next t ∧
    encode (.beqz r1 (signedImm low)) = 4#4 ++ r1 ++ low ∧
    (if readReg s r1 = 0#8 then
      (if 3 ≤ low.toInt ∨ low.toInt ≤ -3 then
        t.pc = BitVec.ofInt 16 ((s.pc.toNat : Int) + low.toInt - 2) ∧ t.ifBuf = 0xFFFF#16 ∧ t.idBuf = 0xFFFF#16 ∧ t.skip = 2
      else t.pc = s.pc ∧ t.ifBuf = s.ifBuf ∧ t.idBuf = s.idBuf ∧ t.skip = low.toInt)
    else ControlKept s t) ∧
    RegsKept s t ∧ t.flags = s.flags ∧
    SchedulerKept s t ∧ DataKept s t ∧ CodeKept s t

/-- BR (43_control.md section 2): the two raw bytes concatenated (the low byte not sign-extended: decision D11, the spec's own
choice), both buffers flushed, the skip counter untouched (decision D14, the spec's own choice). -/
def Obligations.BrJumpsToRegisterPairAndFlushes : Prop :=
  ∀ (r1 r2 : RegIdx) (s : State), ∃ t,
    exec (.br r1 r2) s = .next t ∧
    encode (.br r1 r2) = 7#4 ++ r1 ++ r2 ∧
    t.pc.toNat = (readReg s r1).toNat * 256 + (readReg s r2).toNat ∧
    t.ifBuf = 0xFFFF#16 ∧ t.idBuf = 0xFFFF#16 ∧ t.skip = s.skip ∧
    RegsKept s t ∧ t.flags = s.flags ∧
    SchedulerKept s t ∧ DataKept s t ∧ CodeKept s t

/-- NOP (30_encoding.md R59): only the whole word 0xFFFF carries the NOP tag, though its opcode field is 15; it changes nothing and
reports nothing. -/
def Obligations.NopWordAloneIsTaggedAndDoesNothing : Prop :=
  (∀ w, (decode w).nop = true ↔ w = 0xFFFF#16) ∧
  BitVec.extractLsb' 12 4 (0xFFFF#16) = 15#4 ∧ decodeInstr 0xFFFF#16 = .nop ∧ emitted .nop = none ∧
  ∀ s, exec .nop s = .next s

/-- Unrecognized opcodes (30_encoding.md section 4, 45_nop_reserved.md): every such word decodes without error, executes with no state
change, and reports its opcode value. That the report is an event and not state is decision D19, the spec's own choice; the
event's form is log 2 (DEDUCED). -/
def Obligations.UnrecognizedOpcodesChangeNothingAndReport : Prop :=
  (∀ w : Word, 12 ≤ (w.extractLsb' 12 4).toNat → w ≠ 0xFFFF#16 →
    (decode w).nop = false ∧ (decode w).opcode = w.extractLsb' 12 4 ∧
    emitted (decodeInstr w) = some (.unrecognizedOpcode (w.extractLsb' 12 4)) ∧
    ∀ s, exec (decodeInstr w) s = .next s) ∧
  (∀ (r1 low : RegIdx) (s : State),
    exec (.unrecognized12 r1 low) s = .next s ∧ exec (.unrecognized13 r1 low) s = .next s ∧
    exec (.unrecognized14 r1 low) s = .next s ∧ exec (.unrecognized15 r1 low) s = .next s)

/-! ### Flags, over all instructions -/

/-- Carry (40_arithmetic.md R71): bit 8 of the 9-bit sum after ADD, that is the unsigned sum above 255; kept by every other
instruction. -/
def Obligations.CarryIsWrittenByAddAlone : Prop :=
  ∀ i s t, exec i s = .next t →
    (∀ r1 r2, i = .add r1 r2 →
      t.flags.c = ((readReg s r1).zeroExtend 9 + (readReg s r2).zeroExtend 9).getLsbD 8 ∧
      (t.flags.c = true ↔ (readReg s r1).toNat + (readReg s r2).toNat > 255)) ∧
    ((∀ r1 r2, i ≠ .add r1 r2) → t.flags.c = s.flags.c)

/-- Sign (40_arithmetic.md section 1): N xor V after ADD and SUB, kept by every other instruction; after ADD it is the sign of the true
sum, after SUB it need not be the sign of the true difference. The clause about SUB rests on the literal V of decision D23, the spec's
own choice. -/
def Obligations.SignIsNegativeXorOverflowAfterAddAndSub : Prop :=
  (∀ i s t, exec i s = .next t →
    (∀ r1 r2, i = .add r1 r2 →
      t.flags.s = (t.flags.n ^^ t.flags.v) ∧
      (t.flags.s = true ↔ (readReg s r1).toInt + (readReg s r2).toInt < 0)) ∧
    (∀ r1 r2, i = .sub r1 r2 → t.flags.s = (t.flags.n ^^ t.flags.v)) ∧
    ((∀ r1 r2, i ≠ .add r1 r2 ∧ i ≠ .sub r1 r2) → t.flags.s = s.flags.s)) ∧
  (∃ r1 r2 s t, exec (.sub r1 r2) s = .next t ∧
    t.flags.s = false ∧ (readReg s r1).toInt - (readReg s r2).toInt < 0)

/-- Overflow (40_arithmetic.md section 1): after ADD it is two's-complement signed overflow. After SUB, by the literal formula of
decision D23 (the spec's own choice), it is never set for operands of different sign, and for operands of equal sign it is set
exactly when the difference has the other sign. -/
def Obligations.OverflowIsSignedOverflowForAddOnly : Prop :=
  ∀ (r1 r2 : RegIdx) (s : State),
    (∀ t, exec (.add r1 r2) s = .next t →
      (t.flags.v = true ↔
        (readReg s r1).toInt + (readReg s r2).toInt < -128 ∨ 127 < (readReg s r1).toInt + (readReg s r2).toInt)) ∧
    (∀ t, exec (.sub r1 r2) s = .next t →
      (t.flags.v = true ↔
        (0 ≤ (readReg s r1).toInt ∧ 0 ≤ (readReg s r2).toInt ∧ (readReg s r1).toInt < (readReg s r2).toInt) ∨
        ((readReg s r1).toInt < 0 ∧ (readReg s r2).toInt < 0 ∧ (readReg s r2).toInt ≤ (readReg s r1).toInt)))

/-- The relation S = N xor V (10_state.md R19): it holds right after every ADD and SUB and is no invariant of the machine: each of MUL,
ANDI, EOR, SAL, SAR keeps S and V and can break it. -/
def Obligations.SignRelationHoldsAfterAddSubAndCanBreakLater : Prop :=
  (∀ r1 r2 s t, (exec (.add r1 r2) s = .next t ∨ exec (.sub r1 r2) s = .next t) → t.flags.s = (t.flags.n ^^ t.flags.v)) ∧
  (∀ r1 r2 imm i s t, (i = .mul r1 r2 ∨ i = .andi r1 imm ∨ i = .eor r1 r2 ∨ i = .sal r1 imm ∨ i = .sar r1 imm) →
    exec i s = .next t → t.flags.s = s.flags.s ∧ t.flags.v = s.flags.v) ∧
  (∀ r1 r2 low i, (i = .mul r1 r2 ∨ i = .andi r1 (signedImm low) ∨ i = .eor r1 r2 ∨ i = .sal r1 (shiftImm low) ∨
      i = .sar r1 (shiftImm low)) →
    ∃ s t, s.flags.s = (s.flags.n ^^ s.flags.v) ∧ exec i s = .next t ∧ t.flags.s ≠ (t.flags.n ^^ t.flags.v))

/-- Flag write policy (10_state.md section 3): every flag that the row of an opcode does not name is kept. -/
def Obligations.FlagsOutsideAnOpcodesRowAreKept : Prop :=
  ∀ i s t, exec i s = .next t →
    (match i with
    | .add _ _ => True
    | .sub _ _ => t.flags.c = s.flags.c
    | .mul _ _ | .andi _ _ | .eor _ _ | .sal _ _ | .sar _ _ =>
      t.flags.c = s.flags.c ∧ t.flags.v = s.flags.v ∧ t.flags.s = s.flags.s
    | .nop | .movi _ _ | .beqz _ _ | .br _ _ | .ldr _ _ | .str _ _ => t.flags = s.flags
    | .unrecognized12 _ _ | .unrecognized13 _ _ | .unrecognized14 _ _ | .unrecognized15 _ _ => t.flags = s.flags)

/-- No instruction reads a flag (10_state.md section 3): runs from two states that differ only in the flags differ only in the flags,
for any number of cycles. Steps counted past HALTED keep the state by the model's choice, log 3 (DESIGN CHOICE). -/
def Obligations.FlagsNeverInfluenceARun : Prop :=
  ∀ n s f t, runCycles n s = .next t → ∃ f', runCycles n (setFlags s f) = .next (setFlags t f')

/-! ### What a step of the whole machine writes -/

/-- The register file (10_state.md section 1): a cycle writes no register but the one the executed instruction's `r1` field names, and
only ADD, SUB, MUL, MOVI, ANDI, EOR, SAL, SAR and LDR have one. A halted state answers itself by the model's choice, log 3
(DESIGN CHOICE). -/
def Obligations.RegistersAreWrittenOnlyByTheExecutedDestination : Prop :=
  ∀ s t r, step s = .next t → (∀ i, executing s = some i → destination i ≠ some r) → readReg t r = readReg s r

/-- The program counter (10_state.md section 2): fetch advances it by 1 or keeps it, a taken long BEQZ adds to what fetch left, BR
replaces it, and nothing else writes it. Which offsets are long is decision D1, the wrap D2, the raw bytes of BR D11: the spec's own
choices. -/
def Obligations.PcIsWrittenByFetchLongBeqzAndBrOnly : Prop :=
  ∀ s t, s.sched ≠ .halted → step s = .next t →
    (fetchEmpty s = true → fetchedPc s = s.pc) ∧ (fetchEmpty s = false → fetchedPc s = s.pc + 1) ∧
    (∀ r1 imm, executing s = some (.beqz r1 imm) → readReg s r1 = 0#8 → (3 ≤ imm.toInt ∨ imm.toInt ≤ -3) →
      t.pc = BitVec.ofInt 16 (((fetchedPc s).toNat : Int) + imm.toInt - 2)) ∧
    (∀ r1 r2, executing s = some (.br r1 r2) → t.pc = readReg s r1 ++ readReg s r2) ∧
    ((∀ i, executing s = some i → ¬ Flushes s i) → t.pc = fetchedPc s)

/-- Data memory (20_memory.md sections 4 and 7): a cycle changes it only by executing STR, and never a cell from 32 on (the signed reading
of the field is decision D10, the spec's own choice). A halted state answers itself by the model's choice, log 3 (DESIGN CHOICE). -/
def Obligations.DataMemoryChangesOnlyByStrBelow32 : Prop :=
  ∀ s t, step s = .next t →
    (∀ a, 32 ≤ a → readData t a = readData s a) ∧
    ((∀ r1 imm, executing s ≠ some (.str r1 imm)) → DataKept s t)

/-- Instruction memory never changes during a run (46_pipeline.md, what a cycle can change; 20_memory.md section 6). Steps counted past
HALTED keep the state by the model's choice, log 3 (DESIGN CHOICE). -/
def Obligations.InstructionMemoryNeverChangesInARun : Prop :=
  ∀ n s t, runCycles n s = .next t → t.imem = s.imem

/-- Every instruction and every step answers a next state: no exception, no fault, no refusal, in any state and for any number of
cycles (60_exceptions.md section 1). That a negative index is dropped and execution goes on is decision D10, the spec's own choice. That
a step from HALTED answers a next state, the same one, is the model's choice, log 3
(DESIGN CHOICE). -/
def Obligations.EveryInstructionAndRunAnswersNext : Prop :=
  (∀ i s, ∃ t, exec i s = .next t) ∧ (∀ n s, ∃ t, runCycles n s = .next t)

/-! ### The invariant -/

/-- The reset state satisfies the invariant (10_state.md sections 4 and 5). The counters' reset values are decision D5, the cleared
memories D25: the spec's own choices. The memories' canonical form is log 7 (DESIGN CHOICE), the zero fields of EX under the NOP tag
log 5 (DESIGN CHOICE). -/
def Obligations.ResetSatisfiesInv : Prop := MachineInv State.reset

/-- Every launch state, whatever the host loaded, satisfies the invariant and has every field but the memories at its reset value
(70_reset_and_hazards.md section 1). The reset values of `pc`, flags and counters are decisions D3, D4, D5, the cleared memories
D25, the ports' place before the first cycle D18: the spec's own choices. The memories' canonical form is log 7, the zero fields of EX log 5,
the ports as total functions log 8 (each a DESIGN CHOICE). -/
def Obligations.LaunchStatesSatisfyInv : Prop :=
  ∀ s, LaunchState s → MachineInv s ∧ ∃ im dm, s = { State.reset with imem := im, dmem := dm }

/-- Every step keeps the invariant: canonical memories, EX a decoded word, the skip counter in -2 .. 2, the drain counter 1 exactly while
DRAINING, and a halted core with an empty pipeline and nothing to fetch (10_state.md section 4, 46_pipeline.md section 4). The spec's
own choices behind it: the drain clauses rest on decision D12, "nothing to fetch" in HALTED on D12 and D13, the empty buffers there
also on D14, the range of the skip counter on D1 and D15, the fields of a decoded record on D16. The model's own: the canonical form of
the memories is log 7 (DESIGN CHOICE), the zero fields of EX under the NOP tag log 5 (DESIGN CHOICE), and that a step from HALTED
answers the same state log 3 (DESIGN CHOICE). -/
def Obligations.StepKeepsInv : Prop :=
  ∀ s t, MachineInv s → step s = .next t → MachineInv t

/-! ### Encoding -/

/-- Decoding the word of a well-formed instruction gives it back, for every instruction and every operand value (30_encoding.md
sections 3 and 5). -/
def Obligations.DecodeOfEncodeIsIdentity : Prop :=
  ∀ i : Instr, i.wellFormed = true → decodeInstr (encode i) = i

/-- Every one of the 65536 words decodes to a well-formed instruction that encodes back to it: no word is rejected and no bit is
dropped (30_encoding.md section 4). -/
def Obligations.EncodeOfDecodeIsIdentity : Prop :=
  ∀ w : Word, (decodeInstr w).wellFormed = true ∧ encode (decodeInstr w) = w

/-- The encoding as arithmetic on the fields (30_encoding.md section 5): `opcode * 4096 + a * 64 + (b mod 64)`, with the signed
immediate taken modulo 64; only ADD R0 R0 encodes to 0, and only NOP to 0xFFFF. -/
def Obligations.EncodeIsFieldArithmetic : Prop :=
  (∀ r1 r2 : RegIdx,
    (encode (.add r1 r2)).toNat = 0 * 4096 + r1.toNat * 64 + r2.toNat ∧
    (encode (.sub r1 r2)).toNat = 1 * 4096 + r1.toNat * 64 + r2.toNat ∧
    (encode (.mul r1 r2)).toNat = 2 * 4096 + r1.toNat * 64 + r2.toNat ∧
    (encode (.eor r1 r2)).toNat = 6 * 4096 + r1.toNat * 64 + r2.toNat ∧
    (encode (.br r1 r2)).toNat = 7 * 4096 + r1.toNat * 64 + r2.toNat) ∧
  (∀ (r1 : RegIdx) (imm : Byte), immInRange imm = true →
    ((encode (.movi r1 imm)).toNat : Int) = 3 * 4096 + r1.toNat * 64 + imm.toInt % 64 ∧
    ((encode (.beqz r1 imm)).toNat : Int) = 4 * 4096 + r1.toNat * 64 + imm.toInt % 64 ∧
    ((encode (.andi r1 imm)).toNat : Int) = 5 * 4096 + r1.toNat * 64 + imm.toInt % 64 ∧
    ((encode (.ldr r1 imm)).toNat : Int) = 10 * 4096 + r1.toNat * 64 + imm.toInt % 64 ∧
    ((encode (.str r1 imm)).toNat : Int) = 11 * 4096 + r1.toNat * 64 + imm.toInt % 64) ∧
  (∀ (r1 : RegIdx) (shamt : Byte), shamtInRange shamt = true →
    (encode (.sal r1 shamt)).toNat = 8 * 4096 + r1.toNat * 64 + shamt.toNat ∧
    (encode (.sar r1 shamt)).toNat = 9 * 4096 + r1.toNat * 64 + shamt.toNat) ∧
  (∀ i : Instr, i.wellFormed = true →
    (encode i = 0x0000#16 ↔ i = .add 0#6 0#6) ∧ (encode i = 0xFFFF#16 ↔ i = .nop))

/-- The opcode map (30_encoding.md R51, R52, R53, R54, R57): for every register field and every low field, what each opcode decodes
to, with the immediate sign-extended or the shift amount zero-extended by class. -/
def Obligations.DecodeFollowsTheOpcodeMap : Prop :=
  ∀ r1 low : RegIdx,
    decodeInstr (0#4 ++ r1 ++ low) = .add r1 low ∧
    decodeInstr (1#4 ++ r1 ++ low) = .sub r1 low ∧
    decodeInstr (2#4 ++ r1 ++ low) = .mul r1 low ∧
    decodeInstr (3#4 ++ r1 ++ low) = .movi r1 (low.signExtend 8) ∧
    decodeInstr (4#4 ++ r1 ++ low) = .beqz r1 (low.signExtend 8) ∧
    decodeInstr (5#4 ++ r1 ++ low) = .andi r1 (low.signExtend 8) ∧
    decodeInstr (6#4 ++ r1 ++ low) = .eor r1 low ∧
    decodeInstr (7#4 ++ r1 ++ low) = .br r1 low ∧
    decodeInstr (8#4 ++ r1 ++ low) = .sal r1 (low.zeroExtend 8) ∧
    decodeInstr (9#4 ++ r1 ++ low) = .sar r1 (low.zeroExtend 8) ∧
    decodeInstr (10#4 ++ r1 ++ low) = .ldr r1 (low.signExtend 8) ∧
    decodeInstr (11#4 ++ r1 ++ low) = .str r1 (low.signExtend 8) ∧
    decodeInstr (12#4 ++ r1 ++ low) = .unrecognized12 r1 low ∧
    decodeInstr (13#4 ++ r1 ++ low) = .unrecognized13 r1 low ∧
    decodeInstr (14#4 ++ r1 ++ low) = .unrecognized14 r1 low ∧
    decodeInstr (15#4 ++ r1 ++ low) = (if r1 = 63#6 ∧ low = 63#6 then .nop else .unrecognized15 r1 low)

/-- Words of the spec's examples decode to the instructions it names (95_test_vectors.md section 2.1): a sanity statement. -/
def Obligations.SpecExampleWordsDecode : Prop :=
  decodeInstr 0x3045#16 = .movi 1#6 0x05#8 ∧ decodeInstr 0x0042#16 = .add 1#6 2#6 ∧
  decodeInstr 0x30F9#16 = .movi 3#6 0xF9#8 ∧ decodeInstr 0x403C#16 = .beqz 0#6 0xFC#8 ∧
  decodeInstr 0x8FFF#16 = .sal 63#6 0x3F#8 ∧ decodeInstr 0x9107#16 = .sar 4#6 0x07#8 ∧
  decodeInstr 0xBFFF#16 = .str 63#6 0xFF#8 ∧ decodeInstr 0xA060#16 = .ldr 1#6 0xE0#8 ∧
  decodeInstr 0x7042#16 = .br 1#6 2#6 ∧ decodeInstr 0xC123#16 = .unrecognized12 4#6 35#6 ∧
  decodeInstr 0xFFFE#16 = .unrecognized15 63#6 62#6 ∧ decodeInstr 0xFFFF#16 = .nop

/-! ### Memory, fetch and the host's ports -/

/-- Fetch (20_memory.md section 2): empty when `pc` is out of range or at a zero word, answering 0xFFFF and keeping `pc`; otherwise the
word at `pc`, and `pc` one further without wrapping. -/
def Obligations.FetchReturnsWordAndAdvancesOrIsEmpty : Prop :=
  ∀ s : State,
    (fetchEmpty s = true ↔ 1024 ≤ s.pc.toNat ∨ readInstr s s.pc.toNat = 0#16) ∧
    (fetchEmpty s = true → fetchedWord s = 0xFFFF#16 ∧ fetchedPc s = s.pc) ∧
    (fetchEmpty s = false →
      fetchedWord s = readInstr s s.pc.toNat ∧ (fetchedPc s).toNat = s.pc.toNat + 1 ∧ (fetchedPc s).toNat ≤ 1024)

/-- `load_instruction` (20_memory.md section 3), in a canonical instruction memory: the word written and nothing else changed, or, out of
range, nothing changed and the address reported. The canonical form, kept by the write, is the model's choice, log 7 (DESIGN CHOICE);
that the port answers in every state is log 8 (DESIGN CHOICE), the event as its second component log 2 (DEDUCED). An unsigned
`addr` of any size is decision D18, the spec's own choice. -/
def Obligations.LoadInstructionWritesOneWordOrReports : Prop :=
  ∀ (addr value : Nat) (s : State), s.imem.wf 1024 = true →
    (addr ≤ 1023 →
      (loadInstruction addr value s).2 = none ∧
      readInstr (loadInstruction addr value s).1 addr = BitVec.ofNat 16 value ∧
      (∀ a, a ≠ addr → readInstr (loadInstruction addr value s).1 a = readInstr s a) ∧
      (loadInstruction addr value s).1 = { s with imem := (loadInstruction addr value s).1.imem } ∧
      (loadInstruction addr value s).1.imem.wf 1024 = true) ∧
    (1024 ≤ addr → loadInstruction addr value s = (s, some (.addressOutOfRange .loadInstruction addr)))

/-- `load_data` (20_memory.md section 3), in a canonical data memory: the cell set to the low 8 bits of the value and nothing else changed,
at every one of the 2048 addresses; or, out of range, nothing changed and the address reported. The canonical form, kept by the write,
is the model's choice, log 7 (DESIGN CHOICE); that the port answers in every state is log 8 (DESIGN CHOICE), the event as
its second component log 2 (DEDUCED). An unsigned `addr` of any
size is decision D18, the spec's own choice. -/
def Obligations.LoadDataWritesOneCellOrReports : Prop :=
  ∀ (addr value : Nat) (s : State), s.dmem.wf 2048 = true →
    (addr ≤ 2047 →
      (loadData addr value s).2 = none ∧
      readData (loadData addr value s).1 addr = BitVec.ofNat 8 value ∧
      (∀ a, a ≠ addr → readData (loadData addr value s).1 a = readData s a) ∧
      (loadData addr value s).1 = { s with dmem := (loadData addr value s).1.dmem } ∧
      (loadData addr value s).1.dmem.wf 2048 = true) ∧
    (2048 ≤ addr → loadData addr value s = (s, some (.addressOutOfRange .loadData addr)))

/-- A load that follows a store to the same cell returns the stored value (20_memory.md section 6), for every reachable cell and every
pair of registers. The premise that the memories are canonical is the model's representation, log 7 (DESIGN CHOICE). -/
def Obligations.LoadAfterStoreReturnsStoredValue : Prop :=
  ∀ (r1 r2 low : RegIdx) (s t u : State), MemoriesWf s → 0 ≤ low.toInt →
    exec (.str r1 (signedImm low)) s = .next t → exec (.ldr r2 (signedImm low)) t = .next u →
    readReg u r2 = readReg s r1

/-! ### Reset, HALTED and the clock edge -/

/-- The reset values (10_state.md section 5), field by field. `pc` (decision D3), the flags (D4), the skip and the drain counter (D5),
and that reset clears the memories (D25) are the spec's own choices. -/
def Obligations.ResetHasTheSpecValues : Prop :=
  (∀ r, readReg State.reset r = 0#8) ∧
  State.reset.flags = { c := false, v := false, n := false, s := false, z := false } ∧
  State.reset.pc = 0#16 ∧
  (∀ a, readInstr State.reset a = 0#16) ∧ (∀ a, readData State.reset a = 0#8) ∧
  State.reset.ifBuf = 0xFFFF#16 ∧ State.reset.idBuf = 0xFFFF#16 ∧ State.reset.ex.nop = true ∧
  State.reset.skip = 0 ∧ State.reset.drain = 0 ∧ State.reset.sched = .running

/-- The clock edge (46_pipeline.md section 5, decision D17, the spec's own choice). With `reset` every state, memories included, goes to
the reset state: 70_reset_and_hazards.md section 1 with decision D25, the spec's own choice, through the model's function for the reset
input, log 11 (DESIGN CHOICE). Without it a core that is not halted performs a cycle, whose drain follows decisions D12
and D13, the spec's own choices; that a halted core answers the same state is log 3 (DESIGN CHOICE). -/
def Obligations.ClockEdgeResetsOrCycles : Prop :=
  ∀ s, clockEdge true s = .next State.reset ∧
    (halted s = false → clockEdge false s = afterNext countdownPhase (executePhase (beforeExecute s))) ∧
    (halted s = true → clockEdge false s = .next s)

/-- HALTED is final (46_pipeline.md section 4): no number of steps changes anything or emits anything, a clock edge with reset goes to the
reset state, and the host reads a result exactly then (70_reset_and_hazards.md section 1). That a step from HALTED answers the same state
is the model's choice, log 3 (DESIGN CHOICE). The reset clause rests on decisions D17 and D25, the spec's own choices, and on the model's
function for the reset input, log 11 (DESIGN CHOICE); the host's reading on decision D17; that nothing is emitted on D19, with
log 2 (DEDUCED). -/
def Obligations.HaltedIsFinalAndHasTheResult : Prop :=
  (∀ n s, s.sched = .halted → runCycles n s = .next s ∧ cycleDiagnostic s = none ∧ clockEdge true s = .next State.reset) ∧
  (∀ s, s.sched = .halted ↔ runResult s = some { regs := s.regs, flags := s.flags, pc := s.pc, dmem := s.dmem }) ∧
  (∀ s, s.sched ≠ .halted ↔ runResult s = none)

/-! ### The pipeline -/

/-- A step runs the decoded instruction (46_pipeline.md section 1): when the word in ID decodes to a well-formed instruction and the
cycle is not elided, the step is that instruction's execution, on the state that shift, fetch and drain start leave, followed by the
countdown. Those phases leave registers, flags, memories and the skip counter alone. The drain they run follows decisions D12 and D13,
the fields of the decoding that an opcode does not use D16: the spec's own choices. The zero fields of EX under the NOP tag are log 5
(DESIGN CHOICE). -/
def Obligations.StepRunsTheDecodedInstruction : Prop :=
  ∀ (i : Instr) (s : State), i.wellFormed = true → decodeInstr s.idBuf = i → s.sched ≠ .halted → s.skip ≤ 0 →
    step s = afterNext countdownPhase (exec i (beforeExecute s)) ∧
    RegsKept s (beforeExecute s) ∧ (beforeExecute s).flags = s.flags ∧
    DataKept s (beforeExecute s) ∧ CodeKept s (beforeExecute s) ∧ (beforeExecute s).skip = s.skip ∧
    (beforeExecute s).pc = fetchedPc s ∧ (beforeExecute s).ifBuf = fetchedWord s ∧
    (beforeExecute s).idBuf = s.ifBuf ∧ (beforeExecute s).ex = decode s.idBuf ∧
    ∀ t, RegsKept t (countdownPhase t) ∧ (countdownPhase t).flags = t.flags ∧ DataKept t (countdownPhase t) ∧
      CodeKept t (countdownPhase t) ∧ ControlKept t (countdownPhase t) ∧ (countdownPhase t).ex = t.ex

/-- The shift (46_pipeline.md section 1): in every cycle, elided or draining too, EX receives the decoding of the old ID; ID receives the
old IF and IF the fetched word unless the executed instruction flushes both. Which taken BEQZ flushes, offsets of -3 and below included,
is decision D1, that a flush overwrites both buffers D14, the fields of the decoding that an opcode does not use D16: the spec's own
choices (log 1). The zero fields of EX under the NOP tag are log 5 (DESIGN CHOICE). -/
def Obligations.ShiftHappensInEveryCycle : Prop :=
  ∀ s t, s.sched ≠ .halted → step s = .next t →
    t.ex = decode s.idBuf ∧
    ((∀ i, executing s = some i → ¬ Flushes s i) → t.idBuf = s.ifBuf ∧ t.ifBuf = fetchedWord s) ∧
    ((∃ i, executing s = some i ∧ Flushes s i) → t.idBuf = 0xFFFF#16 ∧ t.ifBuf = 0xFFFF#16)

/-- The execute gate (46_pipeline.md section 2): a positive skip counter is decremented and the cycle changes nothing an instruction
could change and emits nothing; with a counter of 0 or less the instruction in EX runs, a NOP tag silently; such a counter is left
alone but by a taken BEQZ; and which value of 0 or less it has makes no difference to anything else. The drain phases around the
instruction follow decisions D12 and D13, the spec's own choices. The signed counter and its assignment are decision D15, the spec's
own choice; what a cycle emits is a function of its start by log 2 (DEDUCED, from D19); in the last clause a halted state answers
itself by the model's choice, log 3 (DESIGN CHOICE). -/
def Obligations.PositiveSkipElidesAndOthersHaveNoEffect : Prop :=
  (∀ s, s.sched ≠ .halted → 0 < s.skip → ∃ t,
    step s = .next t ∧ t.skip = s.skip - 1 ∧ RegsKept s t ∧ t.flags = s.flags ∧ DataKept s t ∧ CodeKept s t ∧
    t.pc = fetchedPc s ∧ t.idBuf = s.ifBuf ∧ t.ifBuf = fetchedWord s ∧ cycleDiagnostic s = none) ∧
  (∀ s, s.sched ≠ .halted → s.skip ≤ 0 →
    step s = afterNext countdownPhase (exec (beforeExecute s).ex.instr (beforeExecute s)) ∧
    ((beforeExecute s).ex.nop = true →
      step s = .next (countdownPhase (beforeExecute s)) ∧ cycleDiagnostic s = none)) ∧
  (∀ s t, s.sched ≠ .halted → s.skip ≤ 0 → step s = .next t →
    (∀ r1 imm, executing s = some (.beqz r1 imm) → readReg s r1 ≠ 0#8) → t.skip = s.skip) ∧
  (∀ s k t, s.skip ≤ 0 → k ≤ 0 → step s = .next t →
    step (setSkip s k) = .next t ∨ (t.skip = s.skip ∧ step (setSkip s k) = .next (setSkip t k)))

/-- The scheduler's transitions (46_pipeline.md section 4; decisions D12 and D13, the spec's own choices), by the word fetched: a real
word keeps or makes the core RUNNING; the sentinel starts a drain with one cycle left, or ends the drain, in HALTED when fetch is
empty at the `pc` the cycle leaves and in RUNNING otherwise. Between cycles a draining core has one cycle left, by
`Obligations.StepKeepsInv`. -/
def Obligations.SchedulerFollowsItsTransitionTable : Prop :=
  ∀ s t, step s = .next t → s.sched ≠ .halted →
    (fetchedWord s ≠ 0xFFFF#16 → t.sched = .running ∧ t.drain = 0) ∧
    (fetchedWord s = 0xFFFF#16 → s.sched = .running → t.sched = .draining ∧ t.drain = 1) ∧
    (fetchedWord s = 0xFFFF#16 → s.sched = .draining → s.drain = 1 →
      t.drain = 0 ∧ t.sched = (if fetchEmpty t then .halted else .running))

/-- The three ways of realising the long-form flush, overwriting the buffers, loading the counter, or both, give the same registers,
flags, memories, `pc` and scheduler state after any number of cycles (46_pipeline.md section 3; decision D14, the spec's own
choice, picks "both"). Steps counted past HALTED keep the state by the model's choice, log 3 (DESIGN CHOICE). -/
def Obligations.ThreeFlushRealisationsAgree : Prop :=
  ∀ (n : Nat) (s both : State), s.skip ≤ 0 → runCycles n (setSkip (flush s) 2) = .next both →
    (∃ t, runCycles n (flush s) = .next t ∧ SameArch both t) ∧
    (∃ t, runCycles n (setSkip s 2) = .next t ∧ SameArch both t)

/-- After a flush two cycles execute nothing but the NOP tag and change no register, flag or data cell; the word fetched in the first
of them is then in ID, and, when the skip counter was at most 2, is the next to execute (46_pipeline.md sections 3 and 5; that a flush
overwrites both buffers is decision D14, the spec's own choice). What a cycle emits is a function of its start by log 2 (DEDUCED, from
D19). A halted state answers itself by the model's choice, log 3 (DESIGN CHOICE). -/
def Obligations.TwoCyclesAfterAFlushExecuteNothing : Prop :=
  ∀ s t u, s.ifBuf = 0xFFFF#16 → s.idBuf = 0xFFFF#16 → step s = .next t → step t = .next u →
    t.regs = s.regs ∧ t.flags = s.flags ∧ t.dmem = s.dmem ∧ u.regs = s.regs ∧ u.flags = s.flags ∧ u.dmem = s.dmem ∧
    (∀ i, executing s = some i ∨ executing t = some i → i = .nop) ∧
    cycleDiagnostic s = none ∧ cycleDiagnostic t = none ∧
    (u.sched ≠ .halted → u.idBuf = fetchedWord s ∧ (s.skip ≤ 2 → executing u = some (decodeInstr (fetchedWord s))))

/-- A taken short BEQZ with offset `i` from 0 to 2 elides exactly the next `i` execute stages and then executes again
(43_control.md section 1; decisions D1 and D15 are the spec's own choices; 90_conflicts.md C2). Steps counted past HALTED keep the state
by the model's choice, log 3 (DESIGN CHOICE). -/
def Obligations.ShortBeqzElidesExactlyItsOffset : Prop :=
  ∀ (r1 low : RegIdx) (s t : State), executing s = some (.beqz r1 (signedImm low)) → readReg s r1 = 0#8 →
    0 ≤ low.toInt → low.toInt ≤ 2 → step s = .next t →
    (∀ (n : Nat) u, (n : Int) < low.toInt → runCycles n t = .next u → executing u = none) ∧
    (∀ (n : Nat) u, (n : Int) = low.toInt → runCycles n t = .next u → u.sched ≠ .halted →
      u.skip = 0 ∧ executing u = some (decodeInstr u.idBuf))

/-- In the nominal case, `pc = a + 3` when a BEQZ fetched from `a` executes, a taken long BEQZ lands at `a + 1 + i`, modulo 65536
(43_control.md section 1; decisions D1 and D2, the spec's own choices). -/
def Obligations.LongBeqzLandsAtItsNominalTarget : Prop :=
  ∀ (a : Nat) (r1 low : RegIdx) (s t : State), s.pc = BitVec.ofNat 16 (a + 3) → readReg s r1 = 0#8 →
    (3 ≤ low.toInt ∨ low.toInt ≤ -3) → exec (.beqz r1 (signedImm low)) s = .next t →
    t.pc = BitVec.ofInt 16 ((a : Int) + 1 + low.toInt)

/-- Latency (46_pipeline.md section 5): the word fetched in one cycle is in ID at the end of the next, unless one of the two cycles
flushes. Which taken BEQZ flushes is decision D1, that BR and a long BEQZ overwrite the buffers D14: the spec's own choices (log 1). -/
def Obligations.FetchedWordReachesIdTwoCyclesLater : Prop :=
  ∀ s t u, s.sched ≠ .halted → t.sched ≠ .halted → step s = .next t → step t = .next u →
    (∀ i, executing s = some i → ¬ Flushes s i) → (∀ i, executing t = some i → ¬ Flushes t i) →
    u.idBuf = fetchedWord s

/-- An empty pipeline with nothing to fetch halts in two cycles and changes no register, flag, memory or `pc` (46_pipeline.md section 4,
decisions D12 and D13, the spec's own choices; the empty program of 70_reset_and_hazards.md section 1). -/
def Obligations.EmptyPipelineHaltsInTwoCycles : Prop :=
  ∀ s, s.ifBuf = 0xFFFF#16 → s.idBuf = 0xFFFF#16 → s.sched = .running → fetchEmpty s = true → ∃ t,
    runCycles 2 s = .next t ∧ t.sched = .halted ∧
    t.regs = s.regs ∧ t.flags = s.flags ∧ t.imem = s.imem ∧ t.dmem = s.dmem ∧ t.pc = s.pc

/-! ### The ALU, the shifts, the diagnostics -/

/-- The ALU block (40_arithmetic.md section 3; decision D17, the spec's own choice): `result_write` is 1 for exactly the nine
register-writing opcodes; the block supplies no result for exactly LDR and the opcodes that write no register; where it supplies one,
executing the decoded instruction is latching the block's outputs; and where it supplies none, it passes the flags through and so does
the execution. That it supplies none for LDR and for the opcodes that write no register is the model's choice, log 9 (DESIGN CHOICE),
and so is the dispatch of a record that no word decodes to, log 5 (DESIGN CHOICE). -/
def Obligations.ExecutionLatchesTheAluBlock : Prop :=
  ∀ (d : Decoded) (s : State), d.nop = false →
    ((aluBlock d.opcode (readReg s d.r1) (readReg s d.r2) d.imm s.flags).resultWrite = true ↔
      d.opcode.toNat ∈ [0, 1, 2, 3, 5, 6, 8, 9, 10]) ∧
    ((aluBlock d.opcode (readReg s d.r1) (readReg s d.r2) d.imm s.flags).result = none ↔
      d.opcode.toNat ∉ [0, 1, 2, 3, 5, 6, 8, 9]) ∧
    (∀ v, (aluBlock d.opcode (readReg s d.r1) (readReg s d.r2) d.imm s.flags).result = some v →
      exec d.instr s =
        .next (setFlags (writeReg s d.r1 v) (aluBlock d.opcode (readReg s d.r1) (readReg s d.r2) d.imm s.flags).flags)) ∧
    ((aluBlock d.opcode (readReg s d.r1) (readReg s d.r2) d.imm s.flags).result = none →
      (aluBlock d.opcode (readReg s d.r1) (readReg s d.r2) d.imm s.flags).flags = s.flags ∧
      ∀ t, exec d.instr s = .next t → t.flags = s.flags)

/-- Shift round trip (42_shift.md, shift round trip; it rests on decision D8, the spec's own choice): SAL then SAR by the same `k` up to 7
returns the original exactly when it is representable in `8 - k` signed bits. -/
def Obligations.SalThenSarReturnsRepresentableValues : Prop :=
  ∀ (r k : RegIdx) (s t u : State), k.toNat ≤ 7 →
    exec (.sal r (shiftImm k)) s = .next t → exec (.sar r (shiftImm k)) t = .next u →
    (readReg u r = readReg s r ↔
      -(2 ^ (7 - k.toNat) : Int) ≤ (readReg s r).toInt ∧ (readReg s r).toInt ≤ 2 ^ (7 - k.toNat) - 1)

/-- When a cycle emits a diagnostic, and which (60_exceptions.md section 1; decisions D10 and D19, the spec's own choices): exactly when
an unrecognized word, or an LDR or STR with a negative index, is decoded from ID and the cycle is not elided. What a cycle emits is a
function of its start, and an LDR's or STR's event names it as the source, by log 2 (DEDUCED). -/
def Obligations.CyclesReportExactlyTheTwoConditions : Prop :=
  ∀ (s : State) (d : Diagnostic), cycleDiagnostic s = some d ↔
    s.sched ≠ .halted ∧ s.skip ≤ 0 ∧ s.idBuf ≠ 0xFFFF#16 ∧
    ((12 ≤ (s.idBuf.extractLsb' 12 4).toNat ∧ d = .unrecognizedOpcode (s.idBuf.extractLsb' 12 4)) ∨
     (s.idBuf.extractLsb' 12 4 = 10#4 ∧ (s.idBuf.extractLsb' 0 6).toInt < 0 ∧
       d = .addressOutOfRange .ldr (s.idBuf.extractLsb' 0 6).toInt) ∨
     (s.idBuf.extractLsb' 12 4 = 11#4 ∧ (s.idBuf.extractLsb' 0 6).toInt < 0 ∧
       d = .addressOutOfRange .str (s.idBuf.extractLsb' 0 6).toInt))
end

