-- ==== Sys2Proof/Laws/Decode.lean ====
section
/-! SUPPORT. The fields of a packed word, the two immediate extensions, and the decoder's two cases. -/

namespace Sys2Proof

/-! ### Fields as numbers (30_encoding.md R51) -/

theorem opcodeField_toNat (w : Word) : (opcodeField w).toNat = w.toNat / 4096 % 16 := by
  simp [opcodeField, BitVec.extractLsb'_toNat, Nat.shiftRight_eq_div_pow]

theorem r1Field_toNat (w : Word) : (r1Field w).toNat = w.toNat / 64 % 64 := by
  simp [r1Field, BitVec.extractLsb'_toNat, Nat.shiftRight_eq_div_pow]

theorem lowField_toNat (w : Word) : (lowField w).toNat = w.toNat % 64 := by
  simp [lowField, BitVec.extractLsb'_toNat]

/-- A packed word is `opcode * 4096 + r1 * 64 + low`. -/
theorem packFields_toNat (op : Opcode) (r1 low : RegIdx) :
    (packFields op r1 low).toNat = op.toNat * 4096 + r1.toNat * 64 + low.toNat := by
  have := op.isLt; have := r1.isLt; have := low.isLt
  simp only [packFields, BitVec.toNat_append]
  rw [← Nat.shiftLeft_add_eq_or_of_lt (by omega), Nat.shiftLeft_eq,
    ← Nat.shiftLeft_add_eq_or_of_lt (by omega), Nat.shiftLeft_eq]
  omega

@[simp] theorem opcodeField_packFields (op : Opcode) (r1 low : RegIdx) : opcodeField (packFields op r1 low) = op := by
  apply BitVec.eq_of_toNat_eq
  have := op.isLt; have := r1.isLt; have := low.isLt
  rw [opcodeField_toNat, packFields_toNat]; omega

@[simp] theorem r1Field_packFields (op : Opcode) (r1 low : RegIdx) : r1Field (packFields op r1 low) = r1 := by
  apply BitVec.eq_of_toNat_eq
  have := op.isLt; have := r1.isLt; have := low.isLt
  rw [r1Field_toNat, packFields_toNat]; omega

@[simp] theorem lowField_packFields (op : Opcode) (r1 low : RegIdx) : lowField (packFields op r1 low) = low := by
  apply BitVec.eq_of_toNat_eq
  have := op.isLt; have := r1.isLt; have := low.isLt
  rw [lowField_toNat, packFields_toNat]; omega

/-- A word is the concatenation of its fields: no bit is unused. -/
theorem packFields_fields (w : Word) : packFields (opcodeField w) (r1Field w) (lowField w) = w := by
  apply BitVec.eq_of_toNat_eq
  have := w.isLt
  rw [packFields_toNat, opcodeField_toNat, r1Field_toNat, lowField_toNat]; omega

/-- A packed word is the NOP word only when every field is all ones. -/
theorem packFields_eq_nopWord (op : Opcode) (r1 low : RegIdx) :
    packFields op r1 low = Config.nopWord ↔ op = 15#4 ∧ r1 = 63#6 ∧ low = 63#6 := by
  constructor
  · intro h
    exact ⟨by rw [← opcodeField_packFields op r1 low, h]; rfl, by rw [← r1Field_packFields op r1 low, h]; rfl,
      by rw [← lowField_packFields op r1 low, h]; rfl⟩
  · rintro ⟨rfl, rfl, rfl⟩; rfl

/-! ### Immediates (30_encoding.md R53, R54) -/

@[simp] theorem lowOfImm_signedImm : ∀ low : RegIdx, lowOfImm (signedImm low) = low := by decide

@[simp] theorem lowOfImm_shiftImm : ∀ low : RegIdx, lowOfImm (shiftImm low) = low := by decide

theorem signedImm_toInt : ∀ low : RegIdx, (signedImm low).toInt = low.toInt := by decide

theorem shiftImm_toNat : ∀ low : RegIdx, (shiftImm low).toNat = low.toNat := by decide

theorem immInRange_signedImm : ∀ low : RegIdx, immInRange (signedImm low) = true := by decide

theorem shamtInRange_shiftImm : ∀ low : RegIdx, shamtInRange (shiftImm low) = true := by decide

theorem signedImm_lowOfImm : ∀ imm : Byte, immInRange imm = true → signedImm (lowOfImm imm) = imm := by decide

theorem shiftImm_lowOfImm : ∀ shamt : Byte, shamtInRange shamt = true → shiftImm (lowOfImm shamt) = shamt := by decide

/-! ### The decoder's cases (30_encoding.md R56) -/

@[simp] theorem decode_nopWord : decode Config.nopWord = nopDecoded := rfl

theorem decode_of_ne (w : Word) (h : w ≠ Config.nopWord) :
    decode w =
      { nop := false, opcode := opcodeField w, r1 := r1Field w, r2 := lowField w,
        imm := if opcodeField w = 8#4 ∨ opcodeField w = 9#4 then shiftImm (lowField w) else signedImm (lowField w) } := by
  rw [decode, if_neg h]

/-- What a packed word other than the NOP word decodes to. -/
theorem decode_packFields (op : Opcode) (r1 low : RegIdx) (h : ¬ (op = 15#4 ∧ r1 = 63#6 ∧ low = 63#6)) :
    decode (packFields op r1 low) =
      { nop := false, opcode := op, r1 := r1, r2 := low,
        imm := if op = 8#4 ∨ op = 9#4 then shiftImm low else signedImm low } := by
  rw [decode_of_ne _ (fun e => h ((packFields_eq_nopWord op r1 low).mp e))]
  simp

@[simp] theorem instr_nopDecoded : nopDecoded.instr = .nop := rfl

@[simp] theorem decodeInstr_nopWord : decodeInstr Config.nopWord = .nop := rfl

end Sys2Proof
end

