-- ==== Sys2Proof/Laws/Memory.lean ====
section
/-! SUPPORT. The memory laws: reading after writing, the canonical form kept by a write, and canonical memories equal when they read
alike. -/

namespace Sys2Proof.Machine

@[simp] theorem Memory.read_nil {w : Nat} (a : Nat) : Memory.read ([] : Memory w) a = 0#w := rfl

@[simp] theorem Memory.wf_nil {w : Nat} (size : Nat) : Memory.wf size ([] : Memory w) = true := rfl

theorem Memory.read_cons {w : Nat} (b : Nat) (u : BitVec w) (m : Memory w) (a : Nat) :
    Memory.read ((b, u) :: m) a = if a = b then u else Memory.read m a := rfl

theorem Memory.wfFrom_cons {w : Nat} (lo size b : Nat) (u : BitVec w) (m : Memory w) :
    Memory.wfFrom lo size ((b, u) :: m) = true ↔
      (lo ≤ b ∧ b < size ∧ u ≠ 0#w) ∧ Memory.wfFrom (b + 1) size m = true := by
  simp only [Memory.wfFrom, Bool.and_eq_true, decide_eq_true_eq]; exact Iff.rfl

/-- A memory in form from a higher address on is in form from a lower one on. -/
theorem Memory.wfFrom_mono {w : Nat} {lo lo' size : Nat} (m : Memory w) (hle : lo' ≤ lo)
    (h : Memory.wfFrom lo size m = true) : Memory.wfFrom lo' size m = true := by
  cases m with
  | nil => rfl
  | cons p rest =>
    obtain ⟨b, u⟩ := p
    rw [Memory.wfFrom_cons] at h ⊢
    exact ⟨⟨by omega, h.1.2⟩, h.2⟩

/-- A canonical memory reads zero below its first possible address. -/
theorem Memory.read_below {w : Nat} {lo size : Nat} (m : Memory w) (h : Memory.wfFrom lo size m = true) (a : Nat)
    (ha : a < lo) : Memory.read m a = 0#w := by
  induction m generalizing lo with
  | nil => rfl
  | cons p rest ih =>
    obtain ⟨b, u⟩ := p
    rw [Memory.wfFrom_cons] at h
    rw [Memory.read_cons, if_neg (by omega)]
    exact ih h.2 (by omega)

/-- A canonical memory reads zero outside its address space. -/
theorem Memory.read_outside {w : Nat} {lo size : Nat} (m : Memory w) (h : Memory.wfFrom lo size m = true) (a : Nat)
    (ha : size ≤ a) : Memory.read m a = 0#w := by
  induction m generalizing lo with
  | nil => rfl
  | cons p rest ih =>
    obtain ⟨b, u⟩ := p
    rw [Memory.wfFrom_cons] at h
    rw [Memory.read_cons, if_neg (by omega)]
    exact ih h.2

/-- A write leaves every other address alone, in any memory. -/
theorem Memory.read_write_other {w : Nat} (m : Memory w) (a b : Nat) (v : BitVec w) (hab : b ≠ a) :
    Memory.read (Memory.write m a v) b = Memory.read m b := by
  induction m with
  | nil => simp only [Memory.write]; split <;> simp [Memory.read, hab]
  | cons p rest ih =>
    obtain ⟨c, u⟩ := p
    simp only [Memory.write]
    split
    · split <;> simp [Memory.read_cons, hab]
    · split
      · next h => subst h; split <;> simp [Memory.read_cons, hab]
      · simp [Memory.read_cons, ih]

/-- A read after a write to the same address gives the value written, in a canonical memory. -/
theorem Memory.read_writeFrom_self {w : Nat} {lo size : Nat} (m : Memory w) (a : Nat) (v : BitVec w)
    (h : Memory.wfFrom lo size m = true) : Memory.read (Memory.write m a v) a = v := by
  induction m generalizing lo with
  | nil =>
    simp only [Memory.write]
    split
    · next hv => rw [hv]; rfl
    · simp [Memory.read_cons]
  | cons p rest ih =>
    obtain ⟨c, u⟩ := p
    have hc := (Memory.wfFrom_cons lo size c u rest).mp h
    simp only [Memory.write]
    split
    · split
      · next hlt hv =>
        rw [hv, Memory.read_cons, if_neg (by omega)]
        exact Memory.read_below rest hc.2 a (by omega)
      · simp [Memory.read_cons]
    · split
      · next hac =>
        subst hac
        split
        · next hv => rw [hv]; exact Memory.read_below rest hc.2 a (by omega)
        · simp [Memory.read_cons]
      · next hne =>
        rw [Memory.read_cons, if_neg hne]
        exact ih hc.2

theorem Memory.read_write_self {w : Nat} {size : Nat} (m : Memory w) (a : Nat) (v : BitVec w)
    (h : Memory.wf size m = true) : Memory.read (Memory.write m a v) a = v :=
  Memory.read_writeFrom_self m a v h

/-- A write inside the address space keeps the canonical form. -/
theorem Memory.wfFrom_write {w : Nat} {lo size : Nat} (m : Memory w) (a : Nat) (v : BitVec w)
    (h : Memory.wfFrom lo size m = true) (hlo : lo ≤ a) (ha : a < size) :
    Memory.wfFrom lo size (Memory.write m a v) = true := by
  induction m generalizing lo with
  | nil =>
    simp only [Memory.write]
    split
    · rfl
    · next hv => exact (Memory.wfFrom_cons lo size a v []).mpr ⟨⟨hlo, ha, hv⟩, rfl⟩
  | cons p rest ih =>
    obtain ⟨c, u⟩ := p
    have hc := (Memory.wfFrom_cons lo size c u rest).mp h
    simp only [Memory.write]
    split
    · split
      · exact h
      · next hlt hv =>
        refine (Memory.wfFrom_cons lo size a v _).mpr ⟨⟨hlo, ha, hv⟩, ?_⟩
        exact (Memory.wfFrom_cons (a + 1) size c u rest).mpr ⟨⟨by omega, hc.1.2⟩, hc.2⟩
    · split
      · next hac =>
        subst hac
        split
        · exact Memory.wfFrom_mono rest (by omega) hc.2
        · next hv => exact (Memory.wfFrom_cons lo size a v rest).mpr ⟨⟨hlo, ha, hv⟩, hc.2⟩
      · next hnlt hne =>
        refine (Memory.wfFrom_cons lo size c u _).mpr ⟨hc.1, ?_⟩
        exact ih hc.2 (by omega)

theorem Memory.wf_write {w : Nat} {size : Nat} (m : Memory w) (a : Nat) (v : BitVec w)
    (h : Memory.wf size m = true) (ha : a < size) : Memory.wf size (Memory.write m a v) = true :=
  Memory.wfFrom_write m a v h (Nat.zero_le a) ha

/-- Canonical memories that read alike are equal. -/
theorem Memory.ext_of_wfFrom {w : Nat} {lo lo' size size' : Nat} (m m' : Memory w) (h : Memory.wfFrom lo size m = true)
    (h' : Memory.wfFrom lo' size' m' = true) (hr : ∀ a, Memory.read m a = Memory.read m' a) : m = m' := by
  induction m generalizing m' lo lo' with
  | nil =>
    cases m' with
    | nil => rfl
    | cons p rest =>
      obtain ⟨b, u⟩ := p
      have hc := (Memory.wfFrom_cons lo' size' b u rest).mp h'
      have := hr b
      simp [Memory.read_cons] at this
      exact absurd this.symm hc.1.2.2
  | cons p rest ih =>
    obtain ⟨b, u⟩ := p
    have hc := (Memory.wfFrom_cons lo size b u rest).mp h
    cases m' with
    | nil =>
      have := hr b
      simp [Memory.read_cons] at this
      exact absurd this hc.1.2.2
    | cons p' rest' =>
      obtain ⟨b', u'⟩ := p'
      have hc' := (Memory.wfFrom_cons lo' size' b' u' rest').mp h'
      have hb : b = b' := by
        rcases Nat.lt_trichotomy b b' with hlt | heq | hgt
        · have := hr b
          rw [Memory.read_cons, if_pos rfl, Memory.read_cons, if_neg (by omega),
            Memory.read_below rest' hc'.2 b (by omega)] at this
          exact absurd this hc.1.2.2
        · exact heq
        · have := hr b'
          rw [Memory.read_cons, if_neg (by omega), Memory.read_below rest hc.2 b' (by omega),
            Memory.read_cons, if_pos rfl] at this
          exact absurd this.symm hc'.1.2.2
      subst hb
      have hu : u = u' := by simpa [Memory.read_cons] using hr b
      subst hu
      have : rest = rest' := by
        refine ih rest' hc.2 hc'.2 fun a => ?_
        by_cases hab : a = b
        · subst hab
          rw [Memory.read_below rest hc.2 a (by omega), Memory.read_below rest' hc'.2 a (by omega)]
        · simpa [Memory.read_cons, hab] using hr a
      rw [this]

theorem Memory.ext_of_wf {w : Nat} {size size' : Nat} (m m' : Memory w) (h : Memory.wf size m = true)
    (h' : Memory.wf size' m' = true) (hr : ∀ a, Memory.read m a = Memory.read m' a) : m = m' :=
  Memory.ext_of_wfFrom m m' h h' hr

end Sys2Proof.Machine
end

