-- ==== Sys2Proof/Laws/State.lean ====
section
/-! SUPPORT. One lemma per field of State per named update, true by unfolding, and the same for the reads a statement uses. -/

namespace Sys2Proof.Machine

/-! ### writeReg -/

@[simp] theorem writeReg_flags (s : State) (r : RegIdx) (v : Byte) : (writeReg s r v).flags = s.flags := rfl
@[simp] theorem writeReg_pc (s : State) (r : RegIdx) (v : Byte) : (writeReg s r v).pc = s.pc := rfl
@[simp] theorem writeReg_imem (s : State) (r : RegIdx) (v : Byte) : (writeReg s r v).imem = s.imem := rfl
@[simp] theorem writeReg_dmem (s : State) (r : RegIdx) (v : Byte) : (writeReg s r v).dmem = s.dmem := rfl
@[simp] theorem writeReg_ifBuf (s : State) (r : RegIdx) (v : Byte) : (writeReg s r v).ifBuf = s.ifBuf := rfl
@[simp] theorem writeReg_idBuf (s : State) (r : RegIdx) (v : Byte) : (writeReg s r v).idBuf = s.idBuf := rfl
@[simp] theorem writeReg_ex (s : State) (r : RegIdx) (v : Byte) : (writeReg s r v).ex = s.ex := rfl
@[simp] theorem writeReg_skip (s : State) (r : RegIdx) (v : Byte) : (writeReg s r v).skip = s.skip := rfl
@[simp] theorem writeReg_drain (s : State) (r : RegIdx) (v : Byte) : (writeReg s r v).drain = s.drain := rfl
@[simp] theorem writeReg_sched (s : State) (r : RegIdx) (v : Byte) : (writeReg s r v).sched = s.sched := rfl
@[simp] theorem readData_writeReg (s : State) (r : RegIdx) (v : Byte) (x : Nat) : readData (writeReg s r v) x = readData s x := rfl
@[simp] theorem readInstr_writeReg (s : State) (r : RegIdx) (v : Byte) (x : Nat) : readInstr (writeReg s r v) x = readInstr s x := rfl
@[simp] theorem fetchEmpty_writeReg (s : State) (r : RegIdx) (v : Byte) : fetchEmpty (writeReg s r v) = fetchEmpty s := rfl
@[simp] theorem fetchedWord_writeReg (s : State) (r : RegIdx) (v : Byte) : fetchedWord (writeReg s r v) = fetchedWord s := rfl
@[simp] theorem fetchedPc_writeReg (s : State) (r : RegIdx) (v : Byte) : fetchedPc (writeReg s r v) = fetchedPc s := rfl

/-! ### setFlags -/

@[simp] theorem setFlags_regs (s : State) (f : Flags) : (setFlags s f).regs = s.regs := rfl
@[simp] theorem setFlags_flags (s : State) (f : Flags) : (setFlags s f).flags = f := rfl
@[simp] theorem setFlags_pc (s : State) (f : Flags) : (setFlags s f).pc = s.pc := rfl
@[simp] theorem setFlags_imem (s : State) (f : Flags) : (setFlags s f).imem = s.imem := rfl
@[simp] theorem setFlags_dmem (s : State) (f : Flags) : (setFlags s f).dmem = s.dmem := rfl
@[simp] theorem setFlags_ifBuf (s : State) (f : Flags) : (setFlags s f).ifBuf = s.ifBuf := rfl
@[simp] theorem setFlags_idBuf (s : State) (f : Flags) : (setFlags s f).idBuf = s.idBuf := rfl
@[simp] theorem setFlags_ex (s : State) (f : Flags) : (setFlags s f).ex = s.ex := rfl
@[simp] theorem setFlags_skip (s : State) (f : Flags) : (setFlags s f).skip = s.skip := rfl
@[simp] theorem setFlags_drain (s : State) (f : Flags) : (setFlags s f).drain = s.drain := rfl
@[simp] theorem setFlags_sched (s : State) (f : Flags) : (setFlags s f).sched = s.sched := rfl
@[simp] theorem readReg_setFlags (s : State) (f : Flags) (x : RegIdx) : readReg (setFlags s f) x = readReg s x := rfl
@[simp] theorem readData_setFlags (s : State) (f : Flags) (x : Nat) : readData (setFlags s f) x = readData s x := rfl
@[simp] theorem readInstr_setFlags (s : State) (f : Flags) (x : Nat) : readInstr (setFlags s f) x = readInstr s x := rfl
@[simp] theorem fetchEmpty_setFlags (s : State) (f : Flags) : fetchEmpty (setFlags s f) = fetchEmpty s := rfl
@[simp] theorem fetchedWord_setFlags (s : State) (f : Flags) : fetchedWord (setFlags s f) = fetchedWord s := rfl
@[simp] theorem fetchedPc_setFlags (s : State) (f : Flags) : fetchedPc (setFlags s f) = fetchedPc s := rfl

/-! ### setPc -/

@[simp] theorem setPc_regs (s : State) (p : Word) : (setPc s p).regs = s.regs := rfl
@[simp] theorem setPc_flags (s : State) (p : Word) : (setPc s p).flags = s.flags := rfl
@[simp] theorem setPc_pc (s : State) (p : Word) : (setPc s p).pc = p := rfl
@[simp] theorem setPc_imem (s : State) (p : Word) : (setPc s p).imem = s.imem := rfl
@[simp] theorem setPc_dmem (s : State) (p : Word) : (setPc s p).dmem = s.dmem := rfl
@[simp] theorem setPc_ifBuf (s : State) (p : Word) : (setPc s p).ifBuf = s.ifBuf := rfl
@[simp] theorem setPc_idBuf (s : State) (p : Word) : (setPc s p).idBuf = s.idBuf := rfl
@[simp] theorem setPc_ex (s : State) (p : Word) : (setPc s p).ex = s.ex := rfl
@[simp] theorem setPc_skip (s : State) (p : Word) : (setPc s p).skip = s.skip := rfl
@[simp] theorem setPc_drain (s : State) (p : Word) : (setPc s p).drain = s.drain := rfl
@[simp] theorem setPc_sched (s : State) (p : Word) : (setPc s p).sched = s.sched := rfl
@[simp] theorem readReg_setPc (s : State) (p : Word) (x : RegIdx) : readReg (setPc s p) x = readReg s x := rfl
@[simp] theorem readData_setPc (s : State) (p : Word) (x : Nat) : readData (setPc s p) x = readData s x := rfl
@[simp] theorem readInstr_setPc (s : State) (p : Word) (x : Nat) : readInstr (setPc s p) x = readInstr s x := rfl

/-! ### setSkip -/

@[simp] theorem setSkip_regs (s : State) (k : Int) : (setSkip s k).regs = s.regs := rfl
@[simp] theorem setSkip_flags (s : State) (k : Int) : (setSkip s k).flags = s.flags := rfl
@[simp] theorem setSkip_pc (s : State) (k : Int) : (setSkip s k).pc = s.pc := rfl
@[simp] theorem setSkip_imem (s : State) (k : Int) : (setSkip s k).imem = s.imem := rfl
@[simp] theorem setSkip_dmem (s : State) (k : Int) : (setSkip s k).dmem = s.dmem := rfl
@[simp] theorem setSkip_ifBuf (s : State) (k : Int) : (setSkip s k).ifBuf = s.ifBuf := rfl
@[simp] theorem setSkip_idBuf (s : State) (k : Int) : (setSkip s k).idBuf = s.idBuf := rfl
@[simp] theorem setSkip_ex (s : State) (k : Int) : (setSkip s k).ex = s.ex := rfl
@[simp] theorem setSkip_skip (s : State) (k : Int) : (setSkip s k).skip = k := rfl
@[simp] theorem setSkip_drain (s : State) (k : Int) : (setSkip s k).drain = s.drain := rfl
@[simp] theorem setSkip_sched (s : State) (k : Int) : (setSkip s k).sched = s.sched := rfl
@[simp] theorem readReg_setSkip (s : State) (k : Int) (x : RegIdx) : readReg (setSkip s k) x = readReg s x := rfl
@[simp] theorem readData_setSkip (s : State) (k : Int) (x : Nat) : readData (setSkip s k) x = readData s x := rfl
@[simp] theorem readInstr_setSkip (s : State) (k : Int) (x : Nat) : readInstr (setSkip s k) x = readInstr s x := rfl
@[simp] theorem fetchEmpty_setSkip (s : State) (k : Int) : fetchEmpty (setSkip s k) = fetchEmpty s := rfl
@[simp] theorem fetchedWord_setSkip (s : State) (k : Int) : fetchedWord (setSkip s k) = fetchedWord s := rfl
@[simp] theorem fetchedPc_setSkip (s : State) (k : Int) : fetchedPc (setSkip s k) = fetchedPc s := rfl

/-! ### setSched -/

@[simp] theorem setSched_regs (s : State) (q : Sched) (d : Nat) : (setSched s q d).regs = s.regs := rfl
@[simp] theorem setSched_flags (s : State) (q : Sched) (d : Nat) : (setSched s q d).flags = s.flags := rfl
@[simp] theorem setSched_pc (s : State) (q : Sched) (d : Nat) : (setSched s q d).pc = s.pc := rfl
@[simp] theorem setSched_imem (s : State) (q : Sched) (d : Nat) : (setSched s q d).imem = s.imem := rfl
@[simp] theorem setSched_dmem (s : State) (q : Sched) (d : Nat) : (setSched s q d).dmem = s.dmem := rfl
@[simp] theorem setSched_ifBuf (s : State) (q : Sched) (d : Nat) : (setSched s q d).ifBuf = s.ifBuf := rfl
@[simp] theorem setSched_idBuf (s : State) (q : Sched) (d : Nat) : (setSched s q d).idBuf = s.idBuf := rfl
@[simp] theorem setSched_ex (s : State) (q : Sched) (d : Nat) : (setSched s q d).ex = s.ex := rfl
@[simp] theorem setSched_skip (s : State) (q : Sched) (d : Nat) : (setSched s q d).skip = s.skip := rfl
@[simp] theorem setSched_drain (s : State) (q : Sched) (d : Nat) : (setSched s q d).drain = d := rfl
@[simp] theorem setSched_sched (s : State) (q : Sched) (d : Nat) : (setSched s q d).sched = q := rfl
@[simp] theorem readReg_setSched (s : State) (q : Sched) (d : Nat) (x : RegIdx) : readReg (setSched s q d) x = readReg s x := rfl
@[simp] theorem readData_setSched (s : State) (q : Sched) (d : Nat) (x : Nat) : readData (setSched s q d) x = readData s x := rfl
@[simp] theorem readInstr_setSched (s : State) (q : Sched) (d : Nat) (x : Nat) : readInstr (setSched s q d) x = readInstr s x := rfl
@[simp] theorem fetchEmpty_setSched (s : State) (q : Sched) (d : Nat) : fetchEmpty (setSched s q d) = fetchEmpty s := rfl
@[simp] theorem fetchedWord_setSched (s : State) (q : Sched) (d : Nat) : fetchedWord (setSched s q d) = fetchedWord s := rfl
@[simp] theorem fetchedPc_setSched (s : State) (q : Sched) (d : Nat) : fetchedPc (setSched s q d) = fetchedPc s := rfl

/-! ### flush -/

@[simp] theorem flush_regs (s : State) : (flush s).regs = s.regs := rfl
@[simp] theorem flush_flags (s : State) : (flush s).flags = s.flags := rfl
@[simp] theorem flush_pc (s : State) : (flush s).pc = s.pc := rfl
@[simp] theorem flush_imem (s : State) : (flush s).imem = s.imem := rfl
@[simp] theorem flush_dmem (s : State) : (flush s).dmem = s.dmem := rfl
@[simp] theorem flush_ifBuf (s : State) : (flush s).ifBuf = Config.nopWord := rfl
@[simp] theorem flush_idBuf (s : State) : (flush s).idBuf = Config.nopWord := rfl
@[simp] theorem flush_ex (s : State) : (flush s).ex = s.ex := rfl
@[simp] theorem flush_skip (s : State) : (flush s).skip = s.skip := rfl
@[simp] theorem flush_drain (s : State) : (flush s).drain = s.drain := rfl
@[simp] theorem flush_sched (s : State) : (flush s).sched = s.sched := rfl
@[simp] theorem readReg_flush (s : State) (x : RegIdx) : readReg (flush s) x = readReg s x := rfl
@[simp] theorem readData_flush (s : State) (x : Nat) : readData (flush s) x = readData s x := rfl
@[simp] theorem readInstr_flush (s : State) (x : Nat) : readInstr (flush s) x = readInstr s x := rfl
@[simp] theorem fetchEmpty_flush (s : State) : fetchEmpty (flush s) = fetchEmpty s := rfl
@[simp] theorem fetchedWord_flush (s : State) : fetchedWord (flush s) = fetchedWord s := rfl
@[simp] theorem fetchedPc_flush (s : State) : fetchedPc (flush s) = fetchedPc s := rfl

/-! ### writeData -/

@[simp] theorem writeData_regs (s : State) (a : Nat) (v : Byte) : (writeData s a v).regs = s.regs := rfl
@[simp] theorem writeData_flags (s : State) (a : Nat) (v : Byte) : (writeData s a v).flags = s.flags := rfl
@[simp] theorem writeData_pc (s : State) (a : Nat) (v : Byte) : (writeData s a v).pc = s.pc := rfl
@[simp] theorem writeData_imem (s : State) (a : Nat) (v : Byte) : (writeData s a v).imem = s.imem := rfl
@[simp] theorem writeData_dmem (s : State) (a : Nat) (v : Byte) : (writeData s a v).dmem = s.dmem.write a v := rfl
@[simp] theorem writeData_ifBuf (s : State) (a : Nat) (v : Byte) : (writeData s a v).ifBuf = s.ifBuf := rfl
@[simp] theorem writeData_idBuf (s : State) (a : Nat) (v : Byte) : (writeData s a v).idBuf = s.idBuf := rfl
@[simp] theorem writeData_ex (s : State) (a : Nat) (v : Byte) : (writeData s a v).ex = s.ex := rfl
@[simp] theorem writeData_skip (s : State) (a : Nat) (v : Byte) : (writeData s a v).skip = s.skip := rfl
@[simp] theorem writeData_drain (s : State) (a : Nat) (v : Byte) : (writeData s a v).drain = s.drain := rfl
@[simp] theorem writeData_sched (s : State) (a : Nat) (v : Byte) : (writeData s a v).sched = s.sched := rfl
@[simp] theorem readReg_writeData (s : State) (a : Nat) (v : Byte) (x : RegIdx) : readReg (writeData s a v) x = readReg s x := rfl
@[simp] theorem readInstr_writeData (s : State) (a : Nat) (v : Byte) (x : Nat) : readInstr (writeData s a v) x = readInstr s x := rfl
@[simp] theorem fetchEmpty_writeData (s : State) (a : Nat) (v : Byte) : fetchEmpty (writeData s a v) = fetchEmpty s := rfl
@[simp] theorem fetchedWord_writeData (s : State) (a : Nat) (v : Byte) : fetchedWord (writeData s a v) = fetchedWord s := rfl
@[simp] theorem fetchedPc_writeData (s : State) (a : Nat) (v : Byte) : fetchedPc (writeData s a v) = fetchedPc s := rfl

/-! ### writeInstr -/

@[simp] theorem writeInstr_regs (s : State) (a : Nat) (v : Word) : (writeInstr s a v).regs = s.regs := rfl
@[simp] theorem writeInstr_flags (s : State) (a : Nat) (v : Word) : (writeInstr s a v).flags = s.flags := rfl
@[simp] theorem writeInstr_pc (s : State) (a : Nat) (v : Word) : (writeInstr s a v).pc = s.pc := rfl
@[simp] theorem writeInstr_imem (s : State) (a : Nat) (v : Word) : (writeInstr s a v).imem = s.imem.write a v := rfl
@[simp] theorem writeInstr_dmem (s : State) (a : Nat) (v : Word) : (writeInstr s a v).dmem = s.dmem := rfl
@[simp] theorem writeInstr_ifBuf (s : State) (a : Nat) (v : Word) : (writeInstr s a v).ifBuf = s.ifBuf := rfl
@[simp] theorem writeInstr_idBuf (s : State) (a : Nat) (v : Word) : (writeInstr s a v).idBuf = s.idBuf := rfl
@[simp] theorem writeInstr_ex (s : State) (a : Nat) (v : Word) : (writeInstr s a v).ex = s.ex := rfl
@[simp] theorem writeInstr_skip (s : State) (a : Nat) (v : Word) : (writeInstr s a v).skip = s.skip := rfl
@[simp] theorem writeInstr_drain (s : State) (a : Nat) (v : Word) : (writeInstr s a v).drain = s.drain := rfl
@[simp] theorem writeInstr_sched (s : State) (a : Nat) (v : Word) : (writeInstr s a v).sched = s.sched := rfl
@[simp] theorem readReg_writeInstr (s : State) (a : Nat) (v : Word) (x : RegIdx) : readReg (writeInstr s a v) x = readReg s x := rfl
@[simp] theorem readData_writeInstr (s : State) (a : Nat) (v : Word) (x : Nat) : readData (writeInstr s a v) x = readData s x := rfl

/-! ### latchAlu -/

@[simp] theorem latchAlu_regs (s : State) (r : RegIdx) (o : AluOut) : (latchAlu s r o).regs = (writeReg s r o.result).regs := rfl
@[simp] theorem latchAlu_flags (s : State) (r : RegIdx) (o : AluOut) : (latchAlu s r o).flags = o.flags := rfl
@[simp] theorem latchAlu_pc (s : State) (r : RegIdx) (o : AluOut) : (latchAlu s r o).pc = s.pc := rfl
@[simp] theorem latchAlu_imem (s : State) (r : RegIdx) (o : AluOut) : (latchAlu s r o).imem = s.imem := rfl
@[simp] theorem latchAlu_dmem (s : State) (r : RegIdx) (o : AluOut) : (latchAlu s r o).dmem = s.dmem := rfl
@[simp] theorem latchAlu_ifBuf (s : State) (r : RegIdx) (o : AluOut) : (latchAlu s r o).ifBuf = s.ifBuf := rfl
@[simp] theorem latchAlu_idBuf (s : State) (r : RegIdx) (o : AluOut) : (latchAlu s r o).idBuf = s.idBuf := rfl
@[simp] theorem latchAlu_ex (s : State) (r : RegIdx) (o : AluOut) : (latchAlu s r o).ex = s.ex := rfl
@[simp] theorem latchAlu_skip (s : State) (r : RegIdx) (o : AluOut) : (latchAlu s r o).skip = s.skip := rfl
@[simp] theorem latchAlu_drain (s : State) (r : RegIdx) (o : AluOut) : (latchAlu s r o).drain = s.drain := rfl
@[simp] theorem latchAlu_sched (s : State) (r : RegIdx) (o : AluOut) : (latchAlu s r o).sched = s.sched := rfl
@[simp] theorem readData_latchAlu (s : State) (r : RegIdx) (o : AluOut) (x : Nat) : readData (latchAlu s r o) x = readData s x := rfl
@[simp] theorem readInstr_latchAlu (s : State) (r : RegIdx) (o : AluOut) (x : Nat) : readInstr (latchAlu s r o) x = readInstr s x := rfl
@[simp] theorem fetchEmpty_latchAlu (s : State) (r : RegIdx) (o : AluOut) : fetchEmpty (latchAlu s r o) = fetchEmpty s := rfl
@[simp] theorem fetchedWord_latchAlu (s : State) (r : RegIdx) (o : AluOut) : fetchedWord (latchAlu s r o) = fetchedWord s := rfl
@[simp] theorem fetchedPc_latchAlu (s : State) (r : RegIdx) (o : AluOut) : fetchedPc (latchAlu s r o) = fetchedPc s := rfl

/-! ### shiftPhase -/

@[simp] theorem shiftPhase_regs (s : State) : (shiftPhase s).regs = s.regs := rfl
@[simp] theorem shiftPhase_flags (s : State) : (shiftPhase s).flags = s.flags := rfl
@[simp] theorem shiftPhase_pc (s : State) : (shiftPhase s).pc = fetchedPc s := rfl
@[simp] theorem shiftPhase_imem (s : State) : (shiftPhase s).imem = s.imem := rfl
@[simp] theorem shiftPhase_dmem (s : State) : (shiftPhase s).dmem = s.dmem := rfl
@[simp] theorem shiftPhase_ifBuf (s : State) : (shiftPhase s).ifBuf = fetchedWord s := rfl
@[simp] theorem shiftPhase_idBuf (s : State) : (shiftPhase s).idBuf = s.ifBuf := rfl
@[simp] theorem shiftPhase_ex (s : State) : (shiftPhase s).ex = decode s.idBuf := rfl
@[simp] theorem shiftPhase_skip (s : State) : (shiftPhase s).skip = s.skip := rfl
@[simp] theorem shiftPhase_drain (s : State) : (shiftPhase s).drain = s.drain := rfl
@[simp] theorem shiftPhase_sched (s : State) : (shiftPhase s).sched = s.sched := rfl
@[simp] theorem readReg_shiftPhase (s : State) (x : RegIdx) : readReg (shiftPhase s) x = readReg s x := rfl
@[simp] theorem readData_shiftPhase (s : State) (x : Nat) : readData (shiftPhase s) x = readData s x := rfl
@[simp] theorem readInstr_shiftPhase (s : State) (x : Nat) : readInstr (shiftPhase s) x = readInstr s x := rfl

/-! ### The register file: read after write (10_state.md R10, R13) -/

@[simp] theorem readReg_writeReg_self (s : State) (r : RegIdx) (v : Byte) : readReg (writeReg s r v) r = v := by
  simp [readReg, writeReg]

theorem readReg_writeReg_other (s : State) (r r' : RegIdx) (v : Byte) (h : r' ≠ r) :
    readReg (writeReg s r v) r' = readReg s r' := by
  have hne : r.toNat ≠ r'.toNat := fun e => h (BitVec.eq_of_toNat_eq e.symm)
  simp [readReg, writeReg, hne]

theorem readReg_writeReg (s : State) (r r' : RegIdx) (v : Byte) :
    readReg (writeReg s r v) r' = if r' = r then v else readReg s r' := by
  split
  · next h => subst h; exact readReg_writeReg_self ..
  · next h => exact readReg_writeReg_other s r r' v h

@[simp] theorem readReg_latchAlu_self (s : State) (r : RegIdx) (o : AluOut) : readReg (latchAlu s r o) r = o.result :=
  readReg_writeReg_self s r o.result

theorem readReg_latchAlu_other (s : State) (r r' : RegIdx) (o : AluOut) (h : r' ≠ r) :
    readReg (latchAlu s r o) r' = readReg s r' :=
  readReg_writeReg_other s r r' o.result h

/-- Two register files that read alike at every index are equal. -/
theorem regs_ext (s t : State) (h : ∀ r, readReg s r = readReg t r) : s.regs = t.regs := by
  apply Vector.ext
  intro i hi
  have := h (BitVec.ofNat 6 i)
  simpa [readReg, Nat.mod_eq_of_lt (show i < 64 from hi)] using this

end Sys2Proof.Machine
end

