-- ==== Sys2Proof/Laws/Exec.lean ====
section
/-! SUPPORT. The next state of each instruction, one lemma an instruction over the shared operations, and the small facts about operands
and results that proofs about instructions cite. -/

namespace Sys2Proof.Machine

/-! ### The next state of each instruction -/

section NextStates
variable (r1 r2 : RegIdx) (imm : Byte) (s : State)

theorem exec_nop : exec .nop s = .next s := rfl
theorem exec_add : exec (.add r1 r2) s = .next (latchAlu s r1 (aluAdd (readReg s r1) (readReg s r2))) := rfl
theorem exec_sub : exec (.sub r1 r2) s = .next (latchAlu s r1 (aluSub s.flags (readReg s r1) (readReg s r2))) := rfl
theorem exec_mul : exec (.mul r1 r2) s = .next (latchAlu s r1 (aluMul s.flags (readReg s r1) (readReg s r2))) := rfl
theorem exec_movi : exec (.movi r1 imm) s = .next (latchAlu s r1 (aluMovi s.flags imm)) := rfl
theorem exec_andi : exec (.andi r1 imm) s = .next (latchAlu s r1 (aluAndi s.flags (readReg s r1) imm)) := rfl
theorem exec_eor : exec (.eor r1 r2) s = .next (latchAlu s r1 (aluEor s.flags (readReg s r1) (readReg s r2))) := rfl
theorem exec_sal : exec (.sal r1 imm) s = .next (latchAlu s r1 (aluSal s.flags (readReg s r1) imm)) := rfl
theorem exec_sar : exec (.sar r1 imm) s = .next (latchAlu s r1 (aluSar s.flags (readReg s r1) imm)) := rfl

theorem exec_beqz_not_taken (h : readReg s r1 ≠ 0x00#8) : exec (.beqz r1 imm) s = .next s := by
  rw [exec, execBeqz, if_neg h]

theorem exec_beqz_long (h : readReg s r1 = 0x00#8) (hl : longOffset imm = true) :
    exec (.beqz r1 imm) s = .next (takeLongBranch s imm) := by
  rw [exec, execBeqz, if_pos h, if_pos hl]

theorem exec_beqz_short (h : readReg s r1 = 0x00#8) (hl : longOffset imm = false) :
    exec (.beqz r1 imm) s = .next (takeShortBranch s imm) := by
  rw [exec, execBeqz, if_pos h, if_neg (by simp [hl])]

theorem exec_br : exec (.br r1 r2) s = .next (flush (setPc s (jumpTarget (readReg s r1) (readReg s r2)))) := rfl

theorem exec_ldr_admitted (a : Nat) (h : dataIndex imm = some a) :
    exec (.ldr r1 imm) s = .next (writeReg s r1 (readData s a)) := by
  simp only [exec, execLdr, h]

theorem exec_ldr_dropped (h : dataIndex imm = none) : exec (.ldr r1 imm) s = .next s := by
  simp only [exec, execLdr, h]

theorem exec_str_admitted (a : Nat) (h : dataIndex imm = some a) :
    exec (.str r1 imm) s = .next (writeData s a (readReg s r1)) := by
  simp only [exec, execStr, h]

theorem exec_str_dropped (h : dataIndex imm = none) : exec (.str r1 imm) s = .next s := by
  simp only [exec, execStr, h]

theorem exec_unrecognized12 : exec (.unrecognized12 r1 r2) s = .next s := rfl
theorem exec_unrecognized13 : exec (.unrecognized13 r1 r2) s = .next s := rfl
theorem exec_unrecognized14 : exec (.unrecognized14 r1 r2) s = .next s := rfl
theorem exec_unrecognized15 : exec (.unrecognized15 r1 r2) s = .next s := rfl

end NextStates

/-! ### Operands -/

theorem longOffset_iff (imm : Byte) : longOffset imm = true ↔ 3 ≤ imm.toInt ∨ imm.toInt ≤ -3 := by
  rw [longOffset, decide_eq_true_iff]
  simp only [sval, Config.beqzShortMax]
  omega

/-- The index of LDR and STR is admitted exactly when the immediate is not negative, and is then the immediate. -/
theorem dataIndex_of_nonneg (imm : Byte) (h : 0 ≤ imm.toInt) : dataIndex imm = some imm.toInt.toNat := by
  have := BitVec.toInt_lt (x := imm)
  rw [dataIndex, if_pos (by simp only [sval]; omega), sval]

theorem dataIndex_of_neg (imm : Byte) (h : imm.toInt < 0) : dataIndex imm = none := by
  rw [dataIndex, if_neg (by simp only [sval]; omega)]

/-- An admitted index lies inside data memory. -/
theorem dataIndex_lt (imm : Byte) (a : Nat) (h : dataIndex imm = some a) : a < 2048 := by
  rw [dataIndex] at h
  split at h
  · next hi => simp only [Option.some.injEq] at h; omega
  · simp at h

/-! ### Results (40_arithmetic.md R79: the same 8 bits in either reading) -/

theorem trunc8_add (a b : Byte) : trunc8 (uval a + uval b) = a + b := by
  simp [trunc8, uval, BitVec.ofInt_add]

theorem trunc8_sub (a b : Byte) : trunc8 (uval a - uval b) = a - b := by
  simp [trunc8, uval, sub_eq_add_neg, BitVec.ofInt_add, BitVec.ofInt_neg]

theorem trunc8_mul (a b : Byte) : trunc8 (sval a * sval b) = a * b := by
  simp [trunc8, sval, BitVec.ofInt_mul]

/-! ### Data memory -/

theorem readData_writeData_self (s : State) (size a : Nat) (v : Byte) (h : s.dmem.wf size = true) :
    readData (writeData s a v) a = v :=
  Memory.read_write_self s.dmem a v h

theorem readData_writeData_other (s : State) (a b : Nat) (v : Byte) (h : b ≠ a) :
    readData (writeData s a v) b = readData s b :=
  Memory.read_write_other s.dmem a b v h

theorem readInstr_writeInstr_self (s : State) (size a : Nat) (v : Word) (h : s.imem.wf size = true) :
    readInstr (writeInstr s a v) a = v :=
  Memory.read_write_self s.imem a v h

theorem readInstr_writeInstr_other (s : State) (a b : Nat) (v : Word) (h : b ≠ a) :
    readInstr (writeInstr s a v) b = readInstr s b :=
  Memory.read_write_other s.imem a b v h

/-- Stores keep both memories' canonical form. -/
theorem dmem_wf_writeData (s : State) (a : Nat) (v : Byte) (h : s.dmem.wf 2048 = true) (ha : a < 2048) :
    (writeData s a v).dmem.wf 2048 = true :=
  Memory.wf_write s.dmem a v h ha

theorem imem_wf_writeInstr (s : State) (a : Nat) (v : Word) (h : s.imem.wf 1024 = true) (ha : a < 1024) :
    (writeInstr s a v).imem.wf 1024 = true :=
  Memory.wf_write s.imem a v h ha

end Sys2Proof.Machine
end

