-- ==== Sys2Proof/Laws/Alu.lean ====
section
/-! SUPPORT. The results and flags of the eight ALU operations in bit-vector terms, and the operand readings on an immediate that came
from an instruction word. -/

namespace Sys2Proof.Machine

/-! ### Signs and flags (40_arithmetic.md section 1) -/

theorem signBit_eq_msb (v : Byte) : signBit v = v.msb := by
  simp [signBit, BitVec.msb_eq_getLsbD_last]

/-- A byte's sign bit with its two readings as numbers. -/
theorem msb_toInt_cases (a : Byte) :
    (a.msb = true ∧ a.toInt = a.toNat - 256 ∧ 128 ≤ a.toNat) ∨ (a.msb = false ∧ a.toInt = a.toNat ∧ a.toNat < 128) := by
  have := a.isLt
  have hm := BitVec.msb_eq_decide a
  have hi := BitVec.toInt_eq_toNat_cond a
  by_cases hc : 128 ≤ a.toNat
  · exact .inl ⟨by rw [hm]; simpa using hc, by rw [hi, if_neg (by omega)]; norm_num, hc⟩
  · exact .inr ⟨by rw [hm]; simpa using hc, by rw [hi, if_pos (by omega)], by omega⟩

theorem carryFlag_iff (a b : Byte) : carryFlag a b = true ↔ 255 < a.toNat + b.toNat := by
  rw [carryFlag, decide_eq_true_iff]; simp only [uval]; omega

theorem overflowFlag_iff (a b r : Byte) : overflowFlag a b r = true ↔ a.msb = b.msb ∧ r.msb ≠ a.msb := by
  simp [overflowFlag, signBit_eq_msb]

/-! ### Results -/

theorem trunc8_shiftLeft (a : Byte) (n : Nat) : trunc8 (uval a * 2 ^ n) = a <<< n := by
  apply BitVec.eq_of_toNat_eq
  have h : (a.toNat : Int) * 2 ^ n = ((a.toNat * 2 ^ n : Nat) : Int) := by push_cast; rfl
  rw [trunc8, uval, h, BitVec.ofInt_natCast, BitVec.toNat_ofNat, BitVec.toNat_shiftLeft, Nat.shiftLeft_eq]

theorem trunc8_shiftRight (a : Byte) (n : Nat) : trunc8 (sval a / 2 ^ n) = a.sshiftRight n := by
  apply BitVec.eq_of_toInt_eq
  rw [BitVec.toInt_sshiftRight, Int.shiftRight_eq_div_pow, trunc8, sval, BitVec.toInt_ofInt]
  have hu := BitVec.toInt_lt (x := a)
  have hl := BitVec.le_toInt (x := a)
  norm_num at hu hl
  have hp : (0 : Int) < 2 ^ n := by positivity
  have h1 : -128 ≤ a.toInt / 2 ^ n := by rw [Int.le_ediv_iff_mul_le hp]; nlinarith
  have h2 : a.toInt / 2 ^ n < 128 := by rw [Int.ediv_lt_iff_lt_mul hp]; nlinarith
  push_cast
  rw [Int.bmod_eq_of_le] <;> simp <;> omega

/-- From a count of 7 on, an arithmetic right shift leaves only sign bits. -/
theorem sshiftRight_of_le (a : Byte) (n : Nat) (h : 7 ≤ n) : a.sshiftRight n = if a.msb then 0xFF#8 else 0x00#8 := by
  apply BitVec.eq_of_getLsbD_eq
  intro i hi
  have hb : ∀ j < 8, (0xFF#8).getLsbD j = true := by decide
  have hs : (if n + i < 8 then a.getLsbD (n + i) else a.msb) = a.msb := by
    split
    · rw [show n + i = 7 by omega]; simp [BitVec.msb_eq_getLsbD_last]
    · rfl
  rw [BitVec.getLsbD_sshiftRight, hs]
  cases a.msb
  · simp
  · rw [if_pos rfl, hb i hi]; simp; omega

theorem aluAdd_result (a b : Byte) : (aluAdd a b).result = a + b := trunc8_add a b

theorem aluSub_result (f : Flags) (a b : Byte) : (aluSub f a b).result = a - b := trunc8_sub a b

theorem aluMul_result (f : Flags) (a b : Byte) : (aluMul f a b).result = a * b := trunc8_mul a b

theorem aluMovi_result (f : Flags) (imm : Byte) : (aluMovi f imm).result = imm := rfl

theorem aluAndi_result (f : Flags) (a imm : Byte) : (aluAndi f a imm).result = a &&& imm := rfl

theorem aluEor_result (f : Flags) (a b : Byte) : (aluEor f a b).result = a ^^^ b := rfl

theorem aluSal_result (f : Flags) (a shamt : Byte) : (aluSal f a shamt).result = a <<< shamt.toNat :=
  trunc8_shiftLeft a shamt.toNat

theorem aluSar_result (f : Flags) (a shamt : Byte) : (aluSar f a shamt).result = a.sshiftRight shamt.toNat := by
  show trunc8 (sval a / 2 ^ min shamt.toNat 7) = _
  rw [trunc8_shiftRight]
  by_cases h : shamt.toNat ≤ 7
  · rw [min_eq_left h]
  · rw [min_eq_right (by omega), sshiftRight_of_le a 7 (le_refl 7), sshiftRight_of_le a _ (by omega)]

/-! ### Operand readings on an immediate from a word -/

theorem signedImm_eq_signExtend : ∀ low : RegIdx, signedImm low = low.signExtend 8 := by decide

theorem shiftImm_eq_zeroExtend : ∀ low : RegIdx, shiftImm low = low.zeroExtend 8 := by decide

/-- The index of LDR and STR on an immediate from a word: admitted exactly when the field is not negative, so below 32. -/
theorem dataIndex_signedImm (low : RegIdx) :
    dataIndex (signedImm low) = if 0 ≤ low.toInt then some low.toNat else none := by
  have hn : ∀ l : RegIdx, 0 ≤ l.toInt → l.toInt.toNat = l.toNat := by decide
  split
  · next h => rw [dataIndex_of_nonneg _ (by rw [signedImm_toInt]; exact h), signedImm_toInt, hn _ h]
  · next h => exact dataIndex_of_neg _ (by rw [signedImm_toInt]; omega)

theorem dataIndex_signedImm_lt (low : RegIdx) (a : Nat) (h : dataIndex (signedImm low) = some a) : a < 32 := by
  have hn : ∀ l : RegIdx, 0 ≤ l.toInt → l.toNat < 32 := by decide
  rw [dataIndex_signedImm] at h
  split at h
  · next hl => cases h; exact hn _ hl
  · cases h

theorem jumpTarget_toNat (hi lo : Byte) : (jumpTarget hi lo).toNat = hi.toNat * 256 + lo.toNat := by
  have := hi.isLt
  have := lo.isLt
  simp only [jumpTarget, BitVec.toNat_append]
  rw [← Nat.shiftLeft_add_eq_or_of_lt (by omega), Nat.shiftLeft_eq]

end Sys2Proof.Machine
end

