-- ==== Sys2Proof/Laws/PerInstr.lean ====
section
/-! SUPPORT. A statement about every instruction as syntax, one lemma a constructor: the word of an instruction carries its opcode in
bits 15 to 12 (30_encoding.md R51, R57, R64). -/

namespace Sys2Proof.Laws.OpcodeField

/-- Bits 15 to 12 of the instruction's word are its opcode. -/
def Statement (i : Instr) : Prop := opcodeField (encode i) = i.opcode

theorem nop : Statement .nop := rfl
theorem add (r1 r2 : RegIdx) : Statement (.add r1 r2) := opcodeField_packFields _ _ _
theorem sub (r1 r2 : RegIdx) : Statement (.sub r1 r2) := opcodeField_packFields _ _ _
theorem mul (r1 r2 : RegIdx) : Statement (.mul r1 r2) := opcodeField_packFields _ _ _
theorem movi (r1 : RegIdx) (imm : Byte) : Statement (.movi r1 imm) := opcodeField_packFields _ _ _
theorem beqz (r1 : RegIdx) (imm : Byte) : Statement (.beqz r1 imm) := opcodeField_packFields _ _ _
theorem andi (r1 : RegIdx) (imm : Byte) : Statement (.andi r1 imm) := opcodeField_packFields _ _ _
theorem eor (r1 r2 : RegIdx) : Statement (.eor r1 r2) := opcodeField_packFields _ _ _
theorem br (r1 r2 : RegIdx) : Statement (.br r1 r2) := opcodeField_packFields _ _ _
theorem sal (r1 : RegIdx) (shamt : Byte) : Statement (.sal r1 shamt) := opcodeField_packFields _ _ _
theorem sar (r1 : RegIdx) (shamt : Byte) : Statement (.sar r1 shamt) := opcodeField_packFields _ _ _
theorem ldr (r1 : RegIdx) (imm : Byte) : Statement (.ldr r1 imm) := opcodeField_packFields _ _ _
theorem str (r1 : RegIdx) (imm : Byte) : Statement (.str r1 imm) := opcodeField_packFields _ _ _
theorem unrecognized12 (r1 low : RegIdx) : Statement (.unrecognized12 r1 low) := opcodeField_packFields _ _ _
theorem unrecognized13 (r1 low : RegIdx) : Statement (.unrecognized13 r1 low) := opcodeField_packFields _ _ _
theorem unrecognized14 (r1 low : RegIdx) : Statement (.unrecognized14 r1 low) := opcodeField_packFields _ _ _
theorem unrecognized15 (r1 low : RegIdx) : Statement (.unrecognized15 r1 low) := opcodeField_packFields _ _ _

end Sys2Proof.Laws.OpcodeField
end

