-- ==== Sys2Proof/Laws/Phases.lean ====
section
/-! SUPPORT. Once for each phase of a cycle: everything it can do. Later proofs cite these and never unfold a phase. -/

namespace Sys2Proof.Machine

/-! ### Fetch (20_memory.md R33, R34) -/

theorem fetchEmpty_iff (s : State) :
    fetchEmpty s = true ↔ 1024 ≤ s.pc.toNat ∨ readInstr s s.pc.toNat = 0x0000#16 := by
  simp [fetchEmpty]

/-- A fetch is empty (the sentinel, `pc` kept) or returns the non-zero word at a `pc` inside instruction memory and advances. -/
theorem fetch_cases (s : State) :
    (fetchEmpty s = true ∧ fetchedWord s = 0xFFFF#16 ∧ fetchedPc s = s.pc) ∨
    (fetchEmpty s = false ∧ s.pc.toNat < 1024 ∧ readInstr s s.pc.toNat ≠ 0x0000#16 ∧
      fetchedWord s = readInstr s s.pc.toNat ∧ fetchedPc s = s.pc + 1#16) := by
  cases h : fetchEmpty s with
  | true => exact .inl ⟨rfl, by simp [fetchedWord, h], by simp [fetchedPc, h]⟩
  | false =>
    have hn : ¬ (1024 ≤ s.pc.toNat ∨ readInstr s s.pc.toNat = 0x0000#16) := by
      rw [← fetchEmpty_iff, h]; simp
    push Not at hn
    exact .inr ⟨rfl, hn.1, hn.2, by simp [fetchedWord, h], by simp [fetchedPc, h]⟩

/-- Fetching reads only `pc` and instruction memory. -/
theorem fetchEmpty_congr (s t : State) (hp : s.pc = t.pc) (hi : s.imem = t.imem) : fetchEmpty s = fetchEmpty t := by
  rw [Bool.eq_iff_iff, fetchEmpty_iff, fetchEmpty_iff, readInstr, readInstr, hp, hi]

theorem fetchedWord_congr (s t : State) (hp : s.pc = t.pc) (hi : s.imem = t.imem) : fetchedWord s = fetchedWord t := by
  rw [fetchedWord, fetchedWord, fetchEmpty_congr s t hp hi, readInstr, readInstr, hp, hi]

theorem fetchedPc_congr (s t : State) (hp : s.pc = t.pc) (hi : s.imem = t.imem) : fetchedPc s = fetchedPc t := by
  rw [fetchedPc, fetchedPc, fetchEmpty_congr s t hp hi, hp]

/-! ### Phase 2 (46_pipeline.md R113) -/

theorem drainPhase_real (w : Word) (s : State) (h : w ≠ 0xFFFF#16) : drainPhase w s = setSched s .running 0 := by
  rw [drainPhase, if_neg h]

theorem drainPhase_start (s : State) (h : s.sched = .running) :
    drainPhase 0xFFFF#16 s = setSched s .draining 2 := by
  rw [drainPhase, if_pos rfl, if_pos h]

theorem drainPhase_keep (s : State) (h : s.sched ≠ .running) : drainPhase 0xFFFF#16 s = s := by
  rw [drainPhase, if_pos rfl, if_neg h]

/-- Phase 2 only writes the scheduler's fields. -/
theorem drainPhase_eq_setSched (w : Word) (s : State) : ∃ q d, drainPhase w s = setSched s q d := by
  by_cases h : w = 0xFFFF#16
  · subst h
    by_cases hr : s.sched = .running
    · exact ⟨_, _, drainPhase_start s hr⟩
    · exact ⟨s.sched, s.drain, drainPhase_keep s hr⟩
  · exact ⟨_, _, drainPhase_real w s h⟩

/-! ### Phase 4 (46_pipeline.md R118) -/

theorem countdownPhase_idle (s : State) (h : s.sched ≠ .draining) : countdownPhase s = s := by
  rw [countdownPhase, if_neg h]

theorem countdownPhase_more (s : State) (h : s.sched = .draining) (hd : 2 ≤ s.drain) :
    countdownPhase s = setSched s .draining (s.drain - 1) := by
  rw [countdownPhase, if_pos h, if_neg (by omega)]

theorem countdownPhase_last (s : State) (h : s.sched = .draining) (hd : s.drain ≤ 1) :
    countdownPhase s = setSched s (if fetchEmpty s then .halted else .running) 0 := by
  rw [countdownPhase, if_pos h, if_pos (by omega)]

/-- Phase 4 only writes the scheduler's fields. -/
theorem countdownPhase_eq_setSched (s : State) : ∃ q d, countdownPhase s = setSched s q d := by
  by_cases h : s.sched = .draining
  · by_cases hd : s.drain ≤ 1
    · exact ⟨_, _, countdownPhase_last s h hd⟩
    · exact ⟨_, _, countdownPhase_more s h (by omega)⟩
  · exact ⟨s.sched, s.drain, countdownPhase_idle s h⟩

section CountdownFields
variable (s : State)
@[simp] theorem countdownPhase_regs : (countdownPhase s).regs = s.regs := by
  obtain ⟨q, d, h⟩ := countdownPhase_eq_setSched s; rw [h]; rfl
@[simp] theorem countdownPhase_flags : (countdownPhase s).flags = s.flags := by
  obtain ⟨q, d, h⟩ := countdownPhase_eq_setSched s; rw [h]; rfl
@[simp] theorem countdownPhase_pc : (countdownPhase s).pc = s.pc := by
  obtain ⟨q, d, h⟩ := countdownPhase_eq_setSched s; rw [h]; rfl
@[simp] theorem countdownPhase_imem : (countdownPhase s).imem = s.imem := by
  obtain ⟨q, d, h⟩ := countdownPhase_eq_setSched s; rw [h]; rfl
@[simp] theorem countdownPhase_dmem : (countdownPhase s).dmem = s.dmem := by
  obtain ⟨q, d, h⟩ := countdownPhase_eq_setSched s; rw [h]; rfl
@[simp] theorem countdownPhase_ifBuf : (countdownPhase s).ifBuf = s.ifBuf := by
  obtain ⟨q, d, h⟩ := countdownPhase_eq_setSched s; rw [h]; rfl
@[simp] theorem countdownPhase_idBuf : (countdownPhase s).idBuf = s.idBuf := by
  obtain ⟨q, d, h⟩ := countdownPhase_eq_setSched s; rw [h]; rfl
@[simp] theorem countdownPhase_ex : (countdownPhase s).ex = s.ex := by
  obtain ⟨q, d, h⟩ := countdownPhase_eq_setSched s; rw [h]; rfl
@[simp] theorem countdownPhase_skip : (countdownPhase s).skip = s.skip := by
  obtain ⟨q, d, h⟩ := countdownPhase_eq_setSched s; rw [h]; rfl
@[simp] theorem readReg_countdownPhase (r : RegIdx) : readReg (countdownPhase s) r = readReg s r := by
  simp [readReg]
@[simp] theorem readData_countdownPhase (a : Nat) : readData (countdownPhase s) a = readData s a := by
  simp [readData]
@[simp] theorem readInstr_countdownPhase (a : Nat) : readInstr (countdownPhase s) a = readInstr s a := by
  simp [readInstr]
@[simp] theorem fetchEmpty_countdownPhase : fetchEmpty (countdownPhase s) = fetchEmpty s := by
  simp [fetchEmpty]
end CountdownFields

/-! ### Phases 1 and 2 together (46_pipeline.md R111) -/

theorem beforeExecute_eq_setSched (s : State) : ∃ q d, beforeExecute s = setSched (shiftPhase s) q d :=
  drainPhase_eq_setSched (fetchedWord s) (shiftPhase s)

section BeforeFields
variable (s : State)
@[simp] theorem beforeExecute_regs : (beforeExecute s).regs = s.regs := by
  obtain ⟨q, d, h⟩ := beforeExecute_eq_setSched s; rw [h]; rfl
@[simp] theorem beforeExecute_flags : (beforeExecute s).flags = s.flags := by
  obtain ⟨q, d, h⟩ := beforeExecute_eq_setSched s; rw [h]; rfl
@[simp] theorem beforeExecute_pc : (beforeExecute s).pc = fetchedPc s := by
  obtain ⟨q, d, h⟩ := beforeExecute_eq_setSched s; rw [h]; rfl
@[simp] theorem beforeExecute_imem : (beforeExecute s).imem = s.imem := by
  obtain ⟨q, d, h⟩ := beforeExecute_eq_setSched s; rw [h]; rfl
@[simp] theorem beforeExecute_dmem : (beforeExecute s).dmem = s.dmem := by
  obtain ⟨q, d, h⟩ := beforeExecute_eq_setSched s; rw [h]; rfl
@[simp] theorem beforeExecute_ifBuf : (beforeExecute s).ifBuf = fetchedWord s := by
  obtain ⟨q, d, h⟩ := beforeExecute_eq_setSched s; rw [h]; rfl
@[simp] theorem beforeExecute_idBuf : (beforeExecute s).idBuf = s.ifBuf := by
  obtain ⟨q, d, h⟩ := beforeExecute_eq_setSched s; rw [h]; rfl
@[simp] theorem beforeExecute_ex : (beforeExecute s).ex = decode s.idBuf := by
  obtain ⟨q, d, h⟩ := beforeExecute_eq_setSched s; rw [h]; rfl
@[simp] theorem beforeExecute_skip : (beforeExecute s).skip = s.skip := by
  obtain ⟨q, d, h⟩ := beforeExecute_eq_setSched s; rw [h]; rfl
@[simp] theorem readReg_beforeExecute (r : RegIdx) : readReg (beforeExecute s) r = readReg s r := by
  simp [readReg]
@[simp] theorem readData_beforeExecute (a : Nat) : readData (beforeExecute s) a = readData s a := by
  simp [readData]
@[simp] theorem readInstr_beforeExecute (a : Nat) : readInstr (beforeExecute s) a = readInstr s a := by
  simp [readInstr]
end BeforeFields

/-- What phases 1 and 2 do to the scheduler's fields, by the word fetched. -/
theorem beforeExecute_sched (s : State) :
    (fetchedWord s ≠ 0xFFFF#16 ∧ (beforeExecute s).sched = .running ∧ (beforeExecute s).drain = 0) ∨
    (fetchedWord s = 0xFFFF#16 ∧ s.sched = .running ∧ (beforeExecute s).sched = .draining ∧ (beforeExecute s).drain = 2) ∨
    (fetchedWord s = 0xFFFF#16 ∧ s.sched ≠ .running ∧ (beforeExecute s).sched = s.sched ∧ (beforeExecute s).drain = s.drain) := by
  by_cases hw : fetchedWord s = 0xFFFF#16
  · by_cases hr : s.sched = .running
    · exact .inr (.inl ⟨hw, hr, by simp [beforeExecute, hw, drainPhase_start _ (show (shiftPhase s).sched = _ from hr)]⟩)
    · refine .inr (.inr ⟨hw, hr, ?_⟩)
      simp [beforeExecute, hw, drainPhase_keep _ (show (shiftPhase s).sched ≠ _ from hr)]
  · exact .inl ⟨hw, by simp [beforeExecute, drainPhase_real _ _ hw]⟩

/-! ### Phase 3 and the step (46_pipeline.md R110, R114, R119) -/

@[simp] theorem afterNext_next (f : State → State) (s : State) :
    afterNext f (.next s) = .next (f s) := rfl

theorem executePhase_elided (s : State) (h : 0 < s.skip) : executePhase s = .next (setSkip s (s.skip - 1)) := by
  rw [executePhase, if_pos h]

theorem executePhase_runs (s : State) (h : s.skip ≤ 0) : executePhase s = exec s.ex.instr s := by
  rw [executePhase, if_neg (by omega)]

theorem step_halted (s : State) (h : s.sched = .halted) : step s = .next s := by
  rw [step, coreStep, if_pos h]

theorem step_running (s : State) (h : s.sched ≠ .halted) :
    step s = afterNext countdownPhase (executePhase (beforeExecute s)) := by
  rw [step, coreStep, if_neg h, cycle]

/-- A step of a core whose skip counter is positive: the cycle is elided. -/
theorem step_elided (s : State) (h : s.sched ≠ .halted) (hk : 0 < s.skip) :
    step s = .next (countdownPhase (setSkip (beforeExecute s) (s.skip - 1))) := by
  rw [step_running s h, executePhase_elided _ (by simpa using hk)]
  simp

/-! ### The phases around the execute stage neither read nor write the skip counter and the flags -/

theorem drainPhase_setSkip (w : Word) (s : State) (k : Int) : drainPhase w (setSkip s k) = setSkip (drainPhase w s) k := by
  unfold drainPhase
  by_cases hw : w = Config.nopWord <;> by_cases hr : s.sched = .running <;> simp [hw, hr] <;> rfl

theorem drainPhase_setFlags (w : Word) (s : State) (f : Flags) : drainPhase w (setFlags s f) = setFlags (drainPhase w s) f := by
  unfold drainPhase
  by_cases hw : w = Config.nopWord <;> by_cases hr : s.sched = .running <;> simp [hw, hr] <;> rfl

theorem countdownPhase_setSkip (s : State) (k : Int) : countdownPhase (setSkip s k) = setSkip (countdownPhase s) k := by
  have he : fetchEmpty (setSkip s k) = fetchEmpty s := rfl
  unfold countdownPhase
  by_cases hr : s.sched = .draining <;> by_cases hd : s.drain - 1 = 0 <;> simp [hr, hd, he] <;> rfl

theorem countdownPhase_setFlags (s : State) (f : Flags) : countdownPhase (setFlags s f) = setFlags (countdownPhase s) f := by
  have he : fetchEmpty (setFlags s f) = fetchEmpty s := rfl
  unfold countdownPhase
  by_cases hr : s.sched = .draining <;> by_cases hd : s.drain - 1 = 0 <;> simp [hr, hd, he] <;> rfl

theorem beforeExecute_setSkip (s : State) (k : Int) : beforeExecute (setSkip s k) = setSkip (beforeExecute s) k :=
  drainPhase_setSkip (fetchedWord s) (shiftPhase s) k

theorem beforeExecute_setFlags (s : State) (f : Flags) : beforeExecute (setFlags s f) = setFlags (beforeExecute s) f :=
  drainPhase_setFlags (fetchedWord s) (shiftPhase s) f

end Sys2Proof.Machine
end

