-- ==== Sys2Proof/Laws/Run.lean ====
section
/-! SUPPORT. Runs of several cycles: the two equations, and the agreement with the host's run. -/

namespace Sys2Proof.Machine

@[simp] theorem runCycles_zero (s : State) : runCycles 0 s = .next s := rfl

theorem runCycles_succ (n : Nat) (s t : State) (h : step s = .next t) : runCycles (n + 1) s = runCycles n t := by
  rw [runCycles, h]

/-! ### The host's run -/

theorem Laws.run_succ_next (M : Host.Core) (n : Nat) (s t : M.State) (h : M.step s = .next t) :
    M.run (n + 1) s = M.run n t := by
  rw [Host.Core.run, h]

theorem Laws.run_succ_fault (M : Host.Core) (n : Nat) (s : M.State) (r : M.Fault) (h : M.step s = .fault r) :
    M.run (n + 1) s = .fault r := by
  rw [Host.Core.run, h]

theorem Laws.run_succ_refused (M : Host.Core) (n : Nat) (s : M.State) (r : M.Refusal) (h : M.step s = .refused r) :
    M.run (n + 1) s = .refused r := by
  rw [Host.Core.run, h]

/-- `runCycles` is the host's run of this core. -/
theorem Laws.runCycles_eq_core_run (n : Nat) (s : State) : runCycles n s = Sys2Proof.core.run n s := by
  induction n generalizing s with
  | zero => rfl
  | succ n ih =>
    cases h : step s with
    | next t =>
      rw [runCycles_succ n s t h, ih t]
      exact (Laws.run_succ_next Sys2Proof.core n s t h).symm
    | fault r =>
      rw [runCycles, h]
      exact (Laws.run_succ_fault Sys2Proof.core n s r h).symm
    | refused r =>
      rw [runCycles, h]
      exact (Laws.run_succ_refused Sys2Proof.core n s r h).symm

end Sys2Proof.Machine
end

