-- ==== Sys2Proof/Laws/Step.lean ====
section
/-! SUPPORT. Inversion: everything an instruction's execution can do to a state, and everything a step can do. Proofs about all
instructions and all steps cite these instead of unfolding `exec` or `step`. -/

namespace Sys2Proof.Machine

theorem next_inj {a b : State} (h : (Host.Outcome.next a : Host.Outcome State Fault Refusal) = .next b) : a = b := by
  cases h; rfl

/-! ### One instruction -/

/-- BEQZ falls through, takes the long form, or takes the short form. -/
theorem beqz_cases (r1 : RegIdx) (imm : Byte) (s t : State) (h : exec (.beqz r1 imm) s = .next t) :
    (readReg s r1 ≠ 0x00#8 ∧ t = s) ∨
    (readReg s r1 = 0x00#8 ∧ (3 ≤ imm.toInt ∨ imm.toInt ≤ -3) ∧ t = takeLongBranch s imm) ∨
    (readReg s r1 = 0x00#8 ∧ ¬ (3 ≤ imm.toInt ∨ imm.toInt ≤ -3) ∧ t = takeShortBranch s imm) := by
  by_cases hz : readReg s r1 = 0x00#8
  · by_cases hl : longOffset imm = true
    · rw [exec_beqz_long r1 imm s hz hl] at h
      exact .inr (.inl ⟨hz, (longOffset_iff imm).mp hl, (next_inj h).symm⟩)
    · rw [exec_beqz_short r1 imm s hz (Bool.eq_false_iff.mpr hl)] at h
      exact .inr (.inr ⟨hz, fun hx => hl ((longOffset_iff imm).mpr hx), (next_inj h).symm⟩)
  · rw [exec_beqz_not_taken r1 imm s hz] at h
    exact .inl ⟨hz, (next_inj h).symm⟩

/-- LDR loads the addressed cell or is dropped. -/
theorem ldr_cases (r1 : RegIdx) (imm : Byte) (s t : State) (h : exec (.ldr r1 imm) s = .next t) :
    (∃ a, dataIndex imm = some a ∧ t = writeReg s r1 (readData s a)) ∨ (dataIndex imm = none ∧ t = s) := by
  cases hd : dataIndex imm with
  | some a => rw [exec_ldr_admitted r1 imm s a hd] at h; exact .inl ⟨a, rfl, (next_inj h).symm⟩
  | none => rw [exec_ldr_dropped r1 imm s hd] at h; exact .inr ⟨rfl, (next_inj h).symm⟩

/-- STR stores to the addressed cell or is dropped. -/
theorem str_cases (r1 : RegIdx) (imm : Byte) (s t : State) (h : exec (.str r1 imm) s = .next t) :
    (∃ a, dataIndex imm = some a ∧ t = writeData s a (readReg s r1)) ∨ (dataIndex imm = none ∧ t = s) := by
  cases hd : dataIndex imm with
  | some a => rw [exec_str_admitted r1 imm s a hd] at h; exact .inl ⟨a, rfl, (next_inj h).symm⟩
  | none => rw [exec_str_dropped r1 imm s hd] at h; exact .inr ⟨rfl, (next_inj h).symm⟩

/-- Everything the execution of an instruction can do: nothing; latch an ALU output into the destination; load; store; take a
long or a short branch; jump. -/
theorem exec_cases (i : Instr) (s t : State) (h : exec i s = .next t) :
    t = s ∨
    (∃ r o, destination i = some r ∧ t = latchAlu s r o) ∨
    (∃ r imm a, i = .ldr r imm ∧ dataIndex imm = some a ∧ t = writeReg s r (readData s a)) ∨
    (∃ r imm a, i = .str r imm ∧ dataIndex imm = some a ∧ t = writeData s a (readReg s r)) ∨
    (∃ r imm, i = .beqz r imm ∧ readReg s r = 0x00#8 ∧ (3 ≤ imm.toInt ∨ imm.toInt ≤ -3) ∧ t = takeLongBranch s imm) ∨
    (∃ r imm, i = .beqz r imm ∧ readReg s r = 0x00#8 ∧ ¬ (3 ≤ imm.toInt ∨ imm.toInt ≤ -3) ∧ t = takeShortBranch s imm) ∨
    (∃ r1 r2, i = .br r1 r2 ∧ t = flush (setPc s (jumpTarget (readReg s r1) (readReg s r2)))) := by
  cases i with
  | nop => exact .inl (next_inj h).symm
  | add r1 r2 => exact .inr (.inl ⟨r1, _, rfl, (next_inj h).symm⟩)
  | sub r1 r2 => exact .inr (.inl ⟨r1, _, rfl, (next_inj h).symm⟩)
  | mul r1 r2 => exact .inr (.inl ⟨r1, _, rfl, (next_inj h).symm⟩)
  | movi r1 imm => exact .inr (.inl ⟨r1, _, rfl, (next_inj h).symm⟩)
  | andi r1 imm => exact .inr (.inl ⟨r1, _, rfl, (next_inj h).symm⟩)
  | eor r1 r2 => exact .inr (.inl ⟨r1, _, rfl, (next_inj h).symm⟩)
  | sal r1 imm => exact .inr (.inl ⟨r1, _, rfl, (next_inj h).symm⟩)
  | sar r1 imm => exact .inr (.inl ⟨r1, _, rfl, (next_inj h).symm⟩)
  | ldr r1 imm =>
    rcases ldr_cases r1 imm s t h with ⟨a, ha, ht⟩ | ⟨_, ht⟩
    · exact .inr (.inr (.inl ⟨r1, imm, a, rfl, ha, ht⟩))
    · exact .inl ht
  | str r1 imm =>
    rcases str_cases r1 imm s t h with ⟨a, ha, ht⟩ | ⟨_, ht⟩
    · exact .inr (.inr (.inr (.inl ⟨r1, imm, a, rfl, ha, ht⟩)))
    · exact .inl ht
  | beqz r1 imm =>
    rcases beqz_cases r1 imm s t h with ⟨_, ht⟩ | ⟨hz, hl, ht⟩ | ⟨hz, hl, ht⟩
    · exact .inl ht
    · exact .inr (.inr (.inr (.inr (.inl ⟨r1, imm, rfl, hz, hl, ht⟩))))
    · exact .inr (.inr (.inr (.inr (.inr (.inl ⟨r1, imm, rfl, hz, hl, ht⟩)))))
  | br r1 r2 => exact .inr (.inr (.inr (.inr (.inr (.inr ⟨r1, r2, rfl, (next_inj h).symm⟩)))))
  | unrecognized12 r1 low => exact .inl (next_inj h).symm
  | unrecognized13 r1 low => exact .inl (next_inj h).symm
  | unrecognized14 r1 low => exact .inl (next_inj h).symm
  | unrecognized15 r1 low => exact .inl (next_inj h).symm

/-- No instruction writes instruction memory, EX or the scheduler's fields. -/
theorem exec_scheduler_kept (i : Instr) (s t : State) (h : exec i s = .next t) :
    t.imem = s.imem ∧ t.ex = s.ex ∧ t.sched = s.sched ∧ t.drain = s.drain := by
  rcases exec_cases i s t h with h | ⟨_, _, _, h⟩ | ⟨_, _, _, _, _, h⟩ | ⟨_, _, _, _, _, h⟩ | ⟨_, _, _, _, _, h⟩ |
    ⟨_, _, _, _, _, h⟩ | ⟨_, _, _, h⟩ <;> subst h <;> exact ⟨rfl, rfl, rfl, rfl⟩

/-- An executed instruction flushes both raw buffers, or leaves them and `pc` alone. -/
theorem exec_flush_cases (i : Instr) (s t : State) (h : exec i s = .next t) :
    (Flushes s i ∧ t.ifBuf = 0xFFFF#16 ∧ t.idBuf = 0xFFFF#16) ∨
    (¬ Flushes s i ∧ t.pc = s.pc ∧ t.ifBuf = s.ifBuf ∧ t.idBuf = s.idBuf) := by
  by_cases hf : Flushes s i
  · refine .inl ⟨hf, ?_⟩
    rcases hf with ⟨r1, r2, e⟩ | ⟨r, imm, e, hz, hl⟩
    · subst e; cases h; exact ⟨rfl, rfl⟩
    · subst e
      rcases beqz_cases r imm s t h with ⟨hn, _⟩ | ⟨_, _, ht⟩ | ⟨_, hn, _⟩
      · exact absurd hz hn
      · subst ht; exact ⟨rfl, rfl⟩
      · exact absurd hl hn
  · refine .inr ⟨hf, ?_⟩
    rcases exec_cases i s t h with h | ⟨_, _, _, h⟩ | ⟨_, _, _, _, _, h⟩ | ⟨_, _, _, _, _, h⟩ | ⟨r, imm, hi, hz, hl, _⟩ |
      ⟨_, _, _, _, _, h⟩ | ⟨r1, r2, hi, _⟩
    · subst h; exact ⟨rfl, rfl, rfl⟩
    · subst h; exact ⟨rfl, rfl, rfl⟩
    · subst h; exact ⟨rfl, rfl, rfl⟩
    · subst h; exact ⟨rfl, rfl, rfl⟩
    · exact absurd (.inr ⟨r, imm, hi, hz, hl⟩) hf
    · subst h; exact ⟨rfl, rfl, rfl⟩
    · exact absurd (.inl ⟨r1, r2, hi⟩) hf

/-- Phases 1 and 2 do not change which instruction flushes. -/
theorem flushes_beforeExecute (s : State) (i : Instr) : Flushes (beforeExecute s) i ↔ Flushes s i := by
  simp [Flushes]

/-! ### One step -/

/-- Everything a step can do: nothing in HALTED; an elided cycle; or the execution of the word in ID between the other phases. -/
theorem step_cases (s t : State) (h : step s = .next t) :
    (s.sched = .halted ∧ executing s = none ∧ t = s) ∨
    (s.sched ≠ .halted ∧ 0 < s.skip ∧ executing s = none ∧
      t = countdownPhase (setSkip (beforeExecute s) (s.skip - 1))) ∨
    (s.sched ≠ .halted ∧ s.skip ≤ 0 ∧ executing s = some (decodeInstr s.idBuf) ∧
      ∃ m, exec (decodeInstr s.idBuf) (beforeExecute s) = .next m ∧ t = countdownPhase m) := by
  by_cases hh : s.sched = .halted
  · rw [step_halted s hh] at h
    exact .inl ⟨hh, by simp [executing, hh], (next_inj h).symm⟩
  · by_cases hk : 0 < s.skip
    · rw [step_elided s hh hk] at h
      exact .inr (.inl ⟨hh, hk, by simp [executing, hk], (next_inj h).symm⟩)
    · refine .inr (.inr ⟨hh, by omega, by simp [executing, hh, hk], ?_⟩)
      have he : (beforeExecute s).ex.instr = decodeInstr s.idBuf := by rw [beforeExecute_ex]; rfl
      rw [step_running s hh, executePhase_runs _ (by simp; omega), he] at h
      cases hm : exec (decodeInstr s.idBuf) (beforeExecute s) with
      | next m => rw [hm] at h; exact ⟨m, rfl, (next_inj h).symm⟩
      | fault r => rw [hm] at h; cases h
      | refused r => rw [hm] at h; cases h

/-- A run of `n + 1` cycles is a step and a run of `n`. -/
theorem runCycles_succ_cases (n : Nat) (s t : State) (h : runCycles (n + 1) s = .next t) :
    ∃ m, step s = .next m ∧ runCycles n m = .next t := by
  rw [runCycles] at h
  cases hm : step s with
  | next m => rw [hm] at h; exact ⟨m, rfl, h⟩
  | fault r => rw [hm] at h; cases h
  | refused r => rw [hm] at h; cases h

end Sys2Proof.Machine
end

