-- ==== Sys2Proof/Tests/Slice0.lean ====
section
/-! SUPPORT. The model's own tests. Expected values come from spec/ (95_test_vectors.md unless a comment names another file); the
words are written out from 30_encoding.md R51 and R57. After them, for every statement of
Certificates/Slice0/Obligations.lean that has hypotheses, a theorem that meets them all. -/

namespace Sys2Proof.Tests

open Sys2Proof.Machine

/-! ### Helpers -/

/-- The reset state with `x[1]`, `x[2]` and `x[4]` given, and C, V, S set, N and Z clear. -/
def regs124 (a b d : Byte) : State :=
  setFlags (writeReg (writeReg (writeReg State.reset 1#6 a) 2#6 b) 4#6 d)
    { c := true, v := true, n := false, s := true, z := false }

def nextOf (o : Host.Outcome State Fault Refusal) : Option State :=
  match o with
  | .next s => some s
  | .fault _ => none
  | .refused _ => none

/-- The next state of executing the instruction a word stands for. -/
def runWord (w : Word) (s : State) : Option State := nextOf (exec (decodeInstr w) s)

/-- Register `r` and the flags C V N S Z after executing a word. -/
def regAndFlags (w : Word) (r : RegIdx) (s : State) : Option (Byte × Flags) :=
  (runWord w s).map fun t => (readReg t r, t.flags)

/-- `pc`, IF, ID and the skip counter after executing a word. -/
def control (w : Word) (s : State) : Option (Word × Word × Word × Int) :=
  (runWord w s).map fun t => (t.pc, t.ifBuf, t.idBuf, t.skip)

/-- A state in mid-program: words in IF and ID, and `pc` given. -/
def busy (pc : Word) : State := { State.reset with pc := pc, ifBuf := 0x3081#16, idBuf := 0x3041#16 }

/-- A state whose next cycle executes the word `w`. -/
def holding (w : Word) : State := { State.reset with pc := 3#16, ifBuf := 0x3081#16, idBuf := w }

/-- A halted core. -/
def haltedState : State := { State.reset with sched := .halted }

/-- The state after a step (`s` itself if there were none). -/
def after (s : State) : State := (nextOf (step s)).getD s

/-! ### WellFormed refuses each ill-formed term -/

theorem test_movi_imm_above_range_refused : (Instr.movi 1#6 32#8).wellFormed = false := by decide
theorem test_beqz_imm_below_range_refused : (Instr.beqz 1#6 0xDF#8).wellFormed = false := by decide
theorem test_andi_imm_above_range_refused : (Instr.andi 1#6 0x7F#8).wellFormed = false := by decide
theorem test_ldr_imm_below_range_refused : (Instr.ldr 1#6 0x80#8).wellFormed = false := by decide
theorem test_str_imm_above_range_refused : (Instr.str 1#6 32#8).wellFormed = false := by decide
theorem test_sal_shamt_above_range_refused : (Instr.sal 1#6 64#8).wellFormed = false := by decide
theorem test_sar_shamt_above_range_refused : (Instr.sar 1#6 0xFF#8).wellFormed = false := by decide
theorem test_nop_word_as_opcode_15_refused : (Instr.unrecognized15 63#6 63#6).wellFormed = false := by decide
theorem test_range_ends_accepted :
    (Instr.movi 1#6 31#8).wellFormed = true ∧ (Instr.movi 1#6 0xE0#8).wellFormed = true ∧
    (Instr.sal 1#6 63#8).wellFormed = true ∧ (Instr.unrecognized15 63#6 62#6).wellFormed = true := by decide

/-! ### Decoding, every constructor, from words written out bit by bit -/

theorem test_decode_add : decodeInstr 0b0000_000001_000010#16 = .add 1#6 2#6 := by decide
theorem test_decode_sub : decodeInstr 0b0001_000001_000010#16 = .sub 1#6 2#6 := by decide
theorem test_decode_mul : decodeInstr 0b0010_000011_000100#16 = .mul 3#6 4#6 := by decide
theorem test_decode_movi_minus_7 : decodeInstr 0b0011_000011_111001#16 = .movi 3#6 0xF9#8 := by decide
theorem test_decode_beqz_minus_4 : decodeInstr 0b0100_000000_111100#16 = .beqz 0#6 0xFC#8 := by decide
theorem test_decode_andi : decodeInstr 0b0101_000001_010101#16 = .andi 1#6 0x15#8 := by decide
theorem test_decode_eor : decodeInstr 0b0110_000111_000111#16 = .eor 7#6 7#6 := by decide
theorem test_decode_br : decodeInstr 0b0111_000001_000010#16 = .br 1#6 2#6 := by decide
theorem test_decode_sal_63 : decodeInstr 0b1000_111111_111111#16 = .sal 63#6 0x3F#8 := by decide
theorem test_decode_sar : decodeInstr 0b1001_000100_000111#16 = .sar 4#6 0x07#8 := by decide
theorem test_decode_ldr_minus_32 : decodeInstr 0b1010_000001_100000#16 = .ldr 1#6 0xE0#8 := by decide
theorem test_decode_str_minus_1 : decodeInstr 0b1011_111111_111111#16 = .str 63#6 0xFF#8 := by decide
theorem test_decode_12 : decodeInstr 0b1100_000100_100011#16 = .unrecognized12 4#6 35#6 := by decide
theorem test_decode_13 : decodeInstr 0b1101_000000_000001#16 = .unrecognized13 0#6 1#6 := by decide
theorem test_decode_14 : decodeInstr 0b1110_100000_000000#16 = .unrecognized14 32#6 0#6 := by decide
theorem test_decode_15 : decodeInstr 0b1111_111111_111110#16 = .unrecognized15 63#6 62#6 := by decide
theorem test_decode_nop : decodeInstr 0b1111_111111_111111#16 = .nop := by decide
theorem test_decode_record_V_D10 :
    decode 0xA060#16 = { nop := false, opcode := 10#4, r1 := 1#6, r2 := 32#6, imm := 0xE0#8 } := by decide
theorem test_decode_record_V_D12 :
    decode 0xC123#16 = { nop := false, opcode := 12#4, r1 := 4#6, r2 := 35#6, imm := 0xE3#8 } := by decide
theorem test_decodeTableWord : decodeTableWord 16 0x3045 = some (.movi 1#6 5#8) := by decide

/-! ### The instructions (at most two each) -/

theorem test_add_V_A4 :
    regAndFlags 0x0042#16 1#6 (regs124 0x80#8 0x80#8 0#8) = some (0x00#8, ⟨true, true, false, true, true⟩) := by decide
theorem test_add_same_register_V_A11 :
    regAndFlags 0x0041#16 1#6 (regs124 0x40#8 0#8 0#8) = some (0x80#8, ⟨false, true, true, false, false⟩) := by decide
theorem test_sub_V_S3 :
    regAndFlags 0x1042#16 1#6 (regs124 0x80#8 0x01#8 0#8) = some (0x7F#8, ⟨true, false, false, false, false⟩) := by decide
theorem test_sub_V_S6 :
    regAndFlags 0x1042#16 1#6 (regs124 0x80#8 0x80#8 0#8) = some (0x00#8, ⟨true, true, false, true, true⟩) := by decide
theorem test_mul_V_MU2 :
    regAndFlags 0x2042#16 1#6 (regs124 0xFD#8 0x05#8 0#8) = some (0xF1#8, ⟨true, true, true, true, false⟩) := by decide
theorem test_mul_V_MU3 :
    regAndFlags 0x2042#16 1#6 (regs124 0x10#8 0x10#8 0#8) = some (0x00#8, ⟨true, true, false, true, true⟩) := by decide
theorem test_movi_V_L3 :
    regAndFlags 0x3FE0#16 63#6 (regs124 0#8 0#8 0#8) = some (0xE0#8, ⟨true, true, false, true, false⟩) := by decide
theorem test_movi_V_L4 :
    regAndFlags 0x301F#16 0#6 (regs124 0#8 0#8 0#8) = some (0x1F#8, ⟨true, true, false, true, false⟩) := by decide
theorem test_andi_V_L8 :
    regAndFlags 0x5060#16 1#6 (regs124 0xFF#8 0#8 0#8) = some (0xE0#8, ⟨true, true, true, true, false⟩) := by decide
theorem test_andi_V_L10 :
    regAndFlags 0x5055#16 1#6 (regs124 0xAA#8 0#8 0#8) = some (0x00#8, ⟨true, true, false, true, true⟩) := by decide
theorem test_eor_V_L16 :
    regAndFlags 0x6042#16 1#6 (regs124 0xFF#8 0x7F#8 0#8) = some (0x80#8, ⟨true, true, true, true, false⟩) := by decide
theorem test_eor_same_register :
    regAndFlags 0x6104#16 4#6 (regs124 0#8 0#8 0x5A#8) = some (0x00#8, ⟨true, true, false, true, true⟩) := by decide
theorem test_sal_V_SH4 :
    regAndFlags 0x8101#16 4#6 (regs124 0#8 0#8 0x81#8) = some (0x02#8, ⟨true, true, false, true, false⟩) := by decide
theorem test_sal_V_SH6 :
    regAndFlags 0x813F#16 4#6 (regs124 0#8 0#8 0x55#8) = some (0x00#8, ⟨true, true, false, true, true⟩) := by decide
/-- 95_test_vectors.md E7: 0xE4 >> 1 = 0xF2. -/
theorem test_sar_E7 :
    regAndFlags 0x9101#16 4#6 (regs124 0#8 0#8 0xE4#8) = some (0xF2#8, ⟨true, true, true, true, false⟩) := by decide
/-- 42_shift.md R86: a count of 63 leaves sign bits only. -/
theorem test_sar_count_63 :
    regAndFlags 0x913F#16 4#6 (regs124 0#8 0#8 0x80#8) = some (0xFF#8, ⟨true, true, true, true, false⟩) := by decide
theorem test_ldr_round_trip_E6 :
    regAndFlags 0xA106#16 4#6 (writeData (regs124 0#8 0#8 0#8) 6 0xF9#8) =
      some (0xF9#8, ⟨true, true, false, true, false⟩) := by decide
theorem test_ldr_negative_index_V_M4 :
    regAndFlags 0xA060#16 1#6 (writeData (regs124 9#8 0#8 0#8) 32 0x77#8) = some (9#8, ⟨true, true, false, true, false⟩) ∧
    emitted (decodeInstr 0xA060#16) = some (.addressOutOfRange .ldr (-32)) := by decide
theorem test_str_cell_31_V_M5 :
    (runWord 0xB05F#16 (regs124 0xFF#8 0#8 0#8)).map State.dmem = some [(31, 0xFF#8)] := by decide
theorem test_str_negative_index_V_M3 :
    (runWord 0xB07F#16 (regs124 9#8 0#8 0#8)).map State.dmem = some [] ∧
    emitted (decodeInstr 0xB07F#16) = some (.addressOutOfRange .str (-1)) := by decide
theorem test_beqz_long_V_B12 : control 0x403D#16 (busy 3#16) = some (65534#16, 0xFFFF#16, 0xFFFF#16, 2) := by decide
theorem test_beqz_short_V_B7 : control 0x403E#16 (busy 3#16) = some (3#16, 0x3081#16, 0x3041#16, -2) := by decide
theorem test_br_V_J2 :
    control 0x7042#16 (writeReg (writeReg (busy 9#16) 1#6 0x01#8) 2#6 0x80#8) =
      some (384#16, 0xFFFF#16, 0xFFFF#16, 0) := by decide
theorem test_br_same_register_V_J4 :
    control 0x70C3#16 (writeReg (busy 9#16) 3#6 0x02#8) = some (514#16, 0xFFFF#16, 0xFFFF#16, 0) := by decide
theorem test_nop : runWord 0xFFFF#16 (busy 5#16) = some (busy 5#16) ∧ emitted .nop = none := by decide
theorem test_unrecognized_V_N1 :
    emitted (decodeInstr 0xC123#16) = some (.unrecognizedOpcode 12#4) ∧
    emitted (decodeInstr 0xF000#16) = some (.unrecognizedOpcode 15#4) := by decide
theorem test_unrecognized_13_14 :
    emitted (decodeInstr 0xD000#16) = some (.unrecognizedOpcode 13#4) ∧
    emitted (decodeInstr 0xE000#16) = some (.unrecognizedOpcode 14#4) := by decide

/-! ### One step, the host's ports, and the placed word -/

/-- 46_pipeline.md R113: the first empty fetch starts a drain, one cycle of which is spent at once (V-P1, cycle 1). -/
theorem test_step_reset_V_P1 :
    ((after State.reset).sched, (after State.reset).drain, (after State.reset).pc) = (.draining, 1, 0#16) := by decide
/-- P5, cycle 3: BEQZ R0 2 executes. -/
theorem test_step_P5 :
    ((after (holding 0x4002#16)).skip, (after (holding 0x4002#16)).idBuf) = (2, 0x3081#16) := by decide
/-- 95_test_vectors.md E8. -/
theorem test_ports_E8 :
    loadInstruction 1024 0x3045 State.reset = (State.reset, some (.addressOutOfRange .loadInstruction 1024)) ∧
    (loadInstruction 1023 0x3045 State.reset).1.imem = [(1023, 0x3045#16)] ∧
    loadData 2048 7 State.reset = (State.reset, some (.addressOutOfRange .loadData 2048)) ∧
    (loadData 2047 7 State.reset).1.dmem = [(2047, 7#8)] := by decide
/-- 10_state.md R21: bits 4 to 0 are C V N S Z. -/
theorem test_sregByte : sregByte { c := true, v := false, n := true, s := false, z := false } = 0b00010100#8 := by decide
/-- 70_reset_and_hazards.md R152: word `k` at address `k`. -/
theorem test_launch : (launch [0x3045, 0x3083] [(6, 0xF9)]).imem = [(0, 0x3045#16), (1, 0x3083#16)] := by decide
theorem test_placed_word_runs :
    readReg (after (State.reset.withFetchWord 16 0x3045)) 1#6 = 5#8 ∧
    readReg (after (haltedState.withFetchWord 16 0x3045)) 1#6 = 5#8 := by decide

/-! ### Witnesses: the hypotheses of each statement can be met together -/

theorem witness_StrStoresCellOrDropsAndReports :
    MemoriesWf State.reset ∧
    dataIndex (signedImm 0#6) = some 0 ∧ dataIndex (signedImm 31#6) = some 31 ∧
    dataIndex (signedImm 32#6) = none ∧ dataIndex (signedImm 63#6) = none := ⟨⟨rfl, rfl⟩, by decide⟩
theorem witness_LdrLoadsCellOrDropsAndReports :
    0 ≤ (0#6 : RegIdx).toInt ∧ 0 ≤ (31#6 : RegIdx).toInt ∧ ¬ 0 ≤ (32#6 : RegIdx).toInt ∧ ¬ 0 ≤ (63#6 : RegIdx).toInt := by decide
theorem witness_BeqzBranchesLongShortOrNot :
    readReg State.reset 1#6 = 0#8 ∧ readReg (regs124 1#8 0#8 0#8) 1#6 ≠ 0#8 ∧
    (3#6 : RegIdx).toInt = 3 ∧ (61#6 : RegIdx).toInt = -3 ∧ (31#6 : RegIdx).toInt = 31 ∧ (32#6 : RegIdx).toInt = -32 ∧
    (2#6 : RegIdx).toInt = 2 ∧ (62#6 : RegIdx).toInt = -2 := by decide
theorem witness_EorXorsTwoRegisters : (7#6 : RegIdx) = 7#6 := rfl
theorem witness_SalShiftsLeftWithZeros : 8 ≤ (8#6 : RegIdx).toNat ∧ 8 ≤ (63#6 : RegIdx).toNat := by decide
theorem witness_SarShiftsRightWithSignFill :
    7 ≤ (7#6 : RegIdx).toNat ∧ 7 ≤ (63#6 : RegIdx).toNat ∧ (readReg (regs124 0x80#8 0#8 0#8) 1#6).msb = true ∧
    (readReg State.reset 1#6).msb = false := by decide
theorem witness_NopWordAloneIsTaggedAndDoesNothing : (decode 0xFFFF#16).nop = true := by decide
theorem witness_UnrecognizedOpcodesChangeNothingAndReport :
    (12 ≤ ((0xC000#16 : Word).extractLsb' 12 4).toNat ∧ (0xC000#16 : Word) ≠ 0xFFFF#16) ∧
    (12 ≤ ((0xFFFE#16 : Word).extractLsb' 12 4).toNat ∧ (0xFFFE#16 : Word) ≠ 0xFFFF#16) := by decide

theorem witness_CarryIsWrittenByAddAlone :
    (∃ t, exec (.add 1#6 2#6) (regs124 0xFF#8 0x01#8 0#8) = .next t) ∧
    (∃ t, exec (.sub 1#6 2#6) (regs124 0xFF#8 0x01#8 0#8) = .next t) ∧
    (∀ r1 r2, Instr.sub 1#6 2#6 ≠ .add r1 r2) := ⟨⟨_, rfl⟩, ⟨_, rfl⟩, by decide⟩
theorem witness_SignIsNegativeXorOverflowAfterAddAndSub :
    (∃ t, exec (.add 1#6 2#6) (regs124 0x80#8 0x80#8 0#8) = .next t) ∧
    (∃ t, exec (.sub 1#6 2#6) (regs124 0x80#8 0x80#8 0#8) = .next t) ∧
    (∃ t, exec .nop State.reset = .next t) ∧
    (∀ r1 r2, Instr.nop ≠ .add r1 r2 ∧ Instr.nop ≠ .sub r1 r2) := ⟨⟨_, rfl⟩, ⟨_, rfl⟩, ⟨_, rfl⟩, by decide⟩
theorem witness_OverflowIsSignedOverflowForAddOnly :
    (∃ t, exec (.add 1#6 2#6) (regs124 0x7F#8 0x01#8 0#8) = .next t) ∧
    (∃ t, exec (.sub 1#6 2#6) (regs124 0x03#8 0x05#8 0#8) = .next t) := ⟨⟨_, rfl⟩, ⟨_, rfl⟩⟩
theorem witness_SignRelationHoldsAfterAddSubAndCanBreakLater :
    (∃ t, exec (.add 1#6 2#6) (regs124 0x80#8 0x80#8 0#8) = .next t) ∧
    (∃ t, exec (.sub 1#6 2#6) (regs124 0x80#8 0x80#8 0#8) = .next t) ∧
    (∃ t, exec (.mul 1#6 2#6) (regs124 2#8 3#8 0#8) = .next t) ∧
    (∃ t, exec (.andi 1#6 0xE0#8) (regs124 2#8 3#8 0#8) = .next t) ∧
    (∃ t, exec (.eor 1#6 1#6) (regs124 2#8 3#8 0#8) = .next t) ∧
    (∃ t, exec (.sal 1#6 63#8) (regs124 2#8 3#8 0#8) = .next t) ∧
    (∃ t, exec (.sar 1#6 63#8) (regs124 2#8 3#8 0#8) = .next t) :=
  ⟨⟨_, rfl⟩, ⟨_, rfl⟩, ⟨_, rfl⟩, ⟨_, rfl⟩, ⟨_, rfl⟩, ⟨_, rfl⟩, ⟨_, rfl⟩⟩
theorem witness_FlagsOutsideAnOpcodesRowAreKept :
    (∃ t, exec (.sub 1#6 2#6) (regs124 1#8 2#8 0#8) = .next t) ∧ (∃ t, exec (.sal 4#6 8#8) (regs124 1#8 2#8 1#8) = .next t) ∧
    (∃ t, exec (.beqz 1#6 3#8) State.reset = .next t) := ⟨⟨_, rfl⟩, ⟨_, rfl⟩, ⟨_, rfl⟩⟩
theorem witness_FlagsNeverInfluenceARun : ∃ t, runCycles 1 (holding 0x0042#16) = .next t := ⟨_, rfl⟩
theorem witness_RegistersAreWrittenOnlyByTheExecutedDestination :
    step (holding 0x3045#16) = .next (after (holding 0x3045#16)) ∧
    executing (holding 0x3045#16) = some (.movi 1#6 5#8) ∧ destination (.movi 1#6 5#8) ≠ some 2#6 := ⟨rfl, by decide⟩
theorem witness_PcIsWrittenByFetchLongBeqzAndBrOnly :
    ((holding 0x4003#16).sched ≠ .halted ∧ executing (holding 0x4003#16) = some (.beqz 0#6 3#8) ∧
      readReg (holding 0x4003#16) 0#6 = 0#8 ∧ 3 ≤ (3#8 : Byte).toInt ∧ fetchEmpty (holding 0x4003#16) = true) ∧
    (executing (holding 0x403D#16) = some (.beqz 0#6 0xFD#8) ∧ (0xFD#8 : Byte).toInt ≤ -3) ∧
    executing (holding 0x7042#16) = some (.br 1#6 2#6) ∧ executing (holding 0xFFFF#16) = some .nop ∧
    fetchEmpty (launch [0x3045] []) = false := by decide
theorem witness_Flushes_excluded : ¬ Flushes (holding 0xFFFF#16) .nop := by
  rintro (⟨r1, r2, h⟩ | ⟨r1, imm, h, _⟩) <;> cases h
theorem witness_DataMemoryChangesOnlyByStrBelow32 :
    step (holding 0xB05F#16) = .next (after (holding 0xB05F#16)) ∧
    (∀ r1 imm, executing (holding 0x3045#16) ≠ some (.str r1 imm)) := by
  refine ⟨rfl, fun r1 imm h => ?_⟩
  rw [show executing (holding 0x3045#16) = some (.movi 1#6 5#8) by decide] at h
  cases h
theorem witness_InstructionMemoryNeverChangesInARun : ∃ t, runCycles 2 (launch [0x3045] []) = .next t := ⟨_, rfl⟩
theorem witness_LaunchStatesSatisfyInv : LaunchState (loadInstruction 0 0x3045 State.reset).1 :=
  .loadInstruction 0 0x3045 .reset
theorem witness_StepKeepsInv : MachineInv State.reset ∧ step State.reset = .next (after State.reset) := by
  exact ⟨⟨⟨rfl, rfl⟩, ⟨0xFFFF#16, rfl⟩, by decide, by decide, by decide, by decide⟩, rfl⟩
theorem witness_DecodeOfEncodeIsIdentity :
    (Instr.movi 63#6 0xE0#8).wellFormed = true ∧ (Instr.sar 0#6 63#8).wellFormed = true ∧
    (Instr.unrecognized15 63#6 62#6).wellFormed = true := by decide
theorem witness_EncodeIsFieldArithmetic :
    immInRange 0xE0#8 = true ∧ immInRange 31#8 = true ∧ shamtInRange 0#8 = true ∧ shamtInRange 63#8 = true ∧
    (Instr.add 0#6 0#6).wellFormed = true ∧ Instr.nop.wellFormed = true := by decide
theorem witness_DecodeFollowsTheOpcodeMap : (63#6 : RegIdx) = 63#6 ∧ ¬ ((63#6 : RegIdx) = 63#6 ∧ (62#6 : RegIdx) = 63#6) := by decide

theorem witness_FetchReturnsWordAndAdvancesOrIsEmpty :
    fetchEmpty State.reset = true ∧ fetchEmpty { State.reset with pc := 1024#16, imem := [(0, 0x3045#16)] } = true ∧
    fetchEmpty { State.reset with pc := 1023#16, imem := [(1023, 0x3045#16)] } = false := by decide
theorem witness_LoadInstructionWritesOneWordOrReports :
    State.reset.imem.wf 1024 = true ∧ (loadInstruction 1023 1 State.reset).2 = none ∧
    (loadInstruction 1024 1 State.reset).1 = State.reset := by decide
theorem witness_LoadDataWritesOneCellOrReports :
    State.reset.dmem.wf 2048 = true ∧ (loadData 2047 1 State.reset).2 = none ∧
    (loadData 2048 1 State.reset).1 = State.reset := by decide
theorem witness_LoadAfterStoreReturnsStoredValue :
    MemoriesWf State.reset ∧ 0 ≤ (31#6 : RegIdx).toInt ∧
    ∃ t u, exec (.str 1#6 (signedImm 31#6)) State.reset = .next t ∧ exec (.ldr 2#6 (signedImm 31#6)) t = .next u :=
  ⟨⟨rfl, rfl⟩, by decide, _, _, rfl, rfl⟩

theorem witness_ClockEdgeResetsOrCycles : halted State.reset = false ∧ halted haltedState = true := by decide
theorem witness_HaltedIsFinalAndHasTheResult : haltedState.sched = .halted ∧ State.reset.sched ≠ .halted := by decide
theorem witness_StepRunsTheDecodedInstruction :
    (Instr.movi 1#6 5#8).wellFormed = true ∧ decodeInstr (holding 0x3045#16).idBuf = .movi 1#6 5#8 ∧
    (holding 0x3045#16).sched ≠ .halted ∧ (holding 0x3045#16).skip ≤ 0 := by decide
theorem witness_ShiftHappensInEveryCycle :
    (holding 0x7042#16).sched ≠ .halted ∧ step (holding 0x7042#16) = .next (after (holding 0x7042#16)) ∧
    (∃ i, executing (holding 0x7042#16) = some i ∧ Flushes (holding 0x7042#16) i) ∧
    step (holding 0xFFFF#16) = .next (after (holding 0xFFFF#16)) ∧ executing (holding 0xFFFF#16) = some .nop :=
  ⟨by decide, rfl, ⟨.br 1#6 2#6, by decide, .inl ⟨_, _, rfl⟩⟩, rfl, by decide⟩
theorem witness_PositiveSkipElidesAndOthersHaveNoEffect :
    (0 < (setSkip State.reset 1).skip ∧ State.reset.sched ≠ .halted ∧ State.reset.skip ≤ 0 ∧ (-2 : Int) ≤ 0 ∧
      (beforeExecute State.reset).ex.nop = true) ∧
    step State.reset = .next (after State.reset) ∧
    (∀ r1 imm, executing State.reset = some (.beqz r1 imm) → readReg State.reset r1 ≠ 0#8) := by
  refine ⟨by decide, rfl, fun r1 imm h => ?_⟩
  rw [show executing State.reset = some .nop by decide] at h
  cases h
theorem witness_SchedulerFollowsItsTransitionTable :
    (State.reset.sched = .running ∧ fetchedWord State.reset = 0xFFFF#16 ∧ fetchedWord (launch [0x3045] []) ≠ 0xFFFF#16) ∧
    ((after State.reset).sched = .draining ∧ (after State.reset).drain = 1 ∧ fetchedWord (after State.reset) = 0xFFFF#16) ∧
    (∃ t, step State.reset = .next t) ∧ (∃ t, step (after State.reset) = .next t) :=
  ⟨by decide, by decide, ⟨_, rfl⟩, ⟨_, rfl⟩⟩
theorem witness_ThreeFlushRealisationsAgree :
    (busy 3#16).skip ≤ 0 ∧ ∃ t, runCycles 1 (setSkip (flush (busy 3#16)) 2) = .next t := ⟨by decide, _, rfl⟩
theorem witness_TwoCyclesAfterAFlushExecuteNothing :
    (flush (launch [0x3045, 0x3083] [])).ifBuf = 0xFFFF#16 ∧ (flush (launch [0x3045, 0x3083] [])).idBuf = 0xFFFF#16 ∧
    (flush (launch [0x3045, 0x3083] [])).skip ≤ 2 ∧ (after (after (flush (launch [0x3045, 0x3083] [])))).sched ≠ .halted ∧
    executing (flush (launch [0x3045, 0x3083] [])) = some .nop ∧
    ∃ t u, step (flush (launch [0x3045, 0x3083] [])) = .next t ∧ step t = .next u :=
  ⟨by decide, by decide, by decide, by decide, by decide, _, _, rfl, rfl⟩
theorem witness_ShortBeqzElidesExactlyItsOffset :
    (executing (holding 0x4001#16) = some (.beqz 0#6 (signedImm 1#6)) ∧ readReg (holding 0x4001#16) 0#6 = 0#8 ∧
      (1#6 : RegIdx).toInt = 1) ∧
    (executing (holding 0x4000#16) = some (.beqz 0#6 (signedImm 0#6)) ∧ (0#6 : RegIdx).toInt = 0) ∧
    (executing (holding 0x4002#16) = some (.beqz 0#6 (signedImm 2#6)) ∧ (2#6 : RegIdx).toInt = 2) ∧
    (after (holding 0x4000#16)).sched ≠ .halted ∧ step (holding 0x4000#16) = .next (after (holding 0x4000#16)) ∧
    step (holding 0x4001#16) = .next (after (holding 0x4001#16)) ∧ (0 : Int) < (1#6 : RegIdx).toInt :=
  ⟨by decide, by decide, by decide, by decide, rfl, rfl, by decide⟩
theorem witness_LongBeqzLandsAtItsNominalTarget :
    (busy 3#16).pc = BitVec.ofNat 16 (0 + 3) ∧ readReg (busy 3#16) 0#6 = 0#8 ∧
    (3 ≤ (3#6 : RegIdx).toInt ∨ (3#6 : RegIdx).toInt ≤ -3) ∧ (3 ≤ (61#6 : RegIdx).toInt ∨ (61#6 : RegIdx).toInt ≤ -3) ∧
    ∃ t, exec (.beqz 0#6 (signedImm 3#6)) (busy 3#16) = .next t := ⟨by decide, by decide, by decide, by decide, _, rfl⟩
theorem witness_FetchedWordReachesIdTwoCyclesLater :
    (launch [0x3045, 0x3083] []).sched ≠ .halted ∧ (after (launch [0x3045, 0x3083] [])).sched ≠ .halted ∧
    executing (launch [0x3045, 0x3083] []) = some .nop ∧ executing (after (launch [0x3045, 0x3083] [])) = some .nop ∧
    ∃ t u, step (launch [0x3045, 0x3083] []) = .next t ∧ step t = .next u :=
  ⟨by decide, by decide, by decide, by decide, _, _, rfl, rfl⟩
theorem witness_EmptyPipelineHaltsInTwoCycles :
    State.reset.ifBuf = 0xFFFF#16 ∧ State.reset.idBuf = 0xFFFF#16 ∧ State.reset.sched = .running ∧
    fetchEmpty State.reset = true := by decide

theorem witness_ExecutionLatchesTheAluBlock :
    (decode 0x0042#16).nop = false ∧
    (aluBlock 0#4 1#8 2#8 0#8 State.reset.flags).result = some 3#8 ∧
    (aluBlock 3#4 1#8 2#8 7#8 State.reset.flags).result = some 7#8 ∧
    (aluBlock 4#4 1#8 2#8 0#8 State.reset.flags).result = none ∧
    (aluBlock 10#4 1#8 2#8 0#8 State.reset.flags).result = none ∧
    (aluBlock 11#4 1#8 2#8 0#8 State.reset.flags).result = none ∧
    ∃ t, exec (decode 0xA060#16).instr State.reset = .next t :=
  ⟨by decide, by decide, by decide, by decide, by decide, by decide, _, rfl⟩
theorem witness_SalThenSarReturnsRepresentableValues :
    (7#6 : RegIdx).toNat ≤ 7 ∧ (0#6 : RegIdx).toNat ≤ 7 ∧
    ∃ t u, exec (.sal 4#6 (shiftImm 7#6)) (regs124 0#8 0#8 0xFF#8) = .next t ∧ exec (.sar 4#6 (shiftImm 7#6)) t = .next u :=
  ⟨by decide, by decide, _, _, rfl, rfl⟩
theorem witness_CyclesReportExactlyTheTwoConditions :
    cycleDiagnostic (holding 0xC123#16) = some (.unrecognizedOpcode 12#4) ∧
    cycleDiagnostic (holding 0xA060#16) = some (.addressOutOfRange .ldr (-32)) ∧
    cycleDiagnostic (holding 0xB07F#16) = some (.addressOutOfRange .str (-1)) ∧
    cycleDiagnostic (setSkip (holding 0xC123#16) 1) = none := by decide

end Sys2Proof.Tests
end

/-! PROOFS. The relation S = N xor V (10_state.md R19): which instructions establish it, and when an instruction that writes only N and
Z breaks it. -/

namespace Sys2Proof.Machine

/-- The relation of 10_state.md R19 between three of the flags. -/
def SignRelation (f : Flags) : Prop := f.s = (f.n ^^ f.v)

/-! ### The relation under the three flag write patterns (10_state.md R18) -/

theorem signRelation_flagsCVNSZ (a b r : Byte) : SignRelation (flagsCVNSZ a b r) := rfl

theorem signRelation_flagsVNSZ (f : Flags) (a b r : Byte) : SignRelation (flagsVNSZ f a b r) := rfl

/-- Writing N and Z alone keeps the relation exactly when it leaves N at its old value. -/
theorem signRelation_flagsNZ_iff (f : Flags) (r : Byte) (hf : SignRelation f) :
    SignRelation (flagsNZ f r) ↔ f.n = negativeFlag r := by
  unfold SignRelation at hf
  simp only [SignRelation, flagsNZ, hf, Bool.xor_left_inj]

/-! ### ADD and SUB -/

theorem signRelation_of_exec_add (r1 r2 : RegIdx) (s t : State) (h : exec (.add r1 r2) s = .next t) :
    SignRelation t.flags := by
  rw [exec_add] at h
  rw [← next_inj h, latchAlu_flags]
  exact signRelation_flagsCVNSZ _ _ _

theorem signRelation_of_exec_sub (r1 r2 : RegIdx) (s t : State) (h : exec (.sub r1 r2) s = .next t) :
    SignRelation t.flags := by
  rw [exec_sub] at h
  rw [← next_inj h, latchAlu_flags]
  exact signRelation_flagsVNSZ _ _ _ _

/-! ### The five instructions that write N and Z alone -/

/-- The instructions whose row of 10_state.md R18 names N and Z and no other flag. -/
inductive WritesNZOnly : Instr → Prop
  | mul (r1 r2 : RegIdx) : WritesNZOnly (.mul r1 r2)
  | andi (r1 : RegIdx) (imm : Byte) : WritesNZOnly (.andi r1 imm)
  | eor (r1 r2 : RegIdx) : WritesNZOnly (.eor r1 r2)
  | sal (r1 : RegIdx) (shamt : Byte) : WritesNZOnly (.sal r1 shamt)
  | sar (r1 : RegIdx) (shamt : Byte) : WritesNZOnly (.sar r1 shamt)

theorem writesNZOnly_of_eq {r1 r2 : RegIdx} {imm shamt : Byte} {i : Instr}
    (h : i = .mul r1 r2 ∨ i = .andi r1 imm ∨ i = .eor r1 r2 ∨ i = .sal r1 shamt ∨ i = .sar r1 shamt) : WritesNZOnly i := by
  rcases h with rfl | rfl | rfl | rfl | rfl <;> constructor

/-- Each of the five latches a result with the N and Z flags of that result; from registers that all hold 0 the result is 0, whatever
the immediate. -/
theorem WritesNZOnly.exec_eq {i : Instr} (hi : WritesNZOnly i) (s : State) :
    ∃ r o, exec i s = .next (latchAlu s r o) ∧ o.flags = flagsNZ s.flags o.result ∧
      ((∀ x, readReg s x = 0#8) → o.result = 0#8) := by
  cases hi with
  | mul r1 r2 => exact ⟨r1, _, exec_mul r1 r2 s, rfl, fun h0 => by simp [aluMul_result, h0]⟩
  | andi r1 imm => exact ⟨r1, _, exec_andi r1 imm s, rfl, fun h0 => by simp [aluAndi_result, h0]⟩
  | eor r1 r2 => exact ⟨r1, _, exec_eor r1 r2 s, rfl, fun h0 => by simp [aluEor_result, h0]⟩
  | sal r1 shamt => exact ⟨r1, _, exec_sal r1 shamt s, rfl, fun h0 => by simp [aluSal_result, h0]⟩
  | sar r1 shamt => exact ⟨r1, _, exec_sar r1 shamt s, rfl, fun h0 => by simp [aluSar_result, h0]⟩

theorem WritesNZOnly.keeps_s_v {i : Instr} (hi : WritesNZOnly i) (s t : State) (h : exec i s = .next t) :
    t.flags.s = s.flags.s ∧ t.flags.v = s.flags.v := by
  obtain ⟨r, o, hexec, hflags, _⟩ := hi.exec_eq s
  rw [hexec] at h
  rw [← next_inj h, latchAlu_flags, hflags]
  exact ⟨rfl, rfl⟩

/-- The reset state with N and S set: the relation holds, and a result of 0 clears N. -/
def zeroRegsNegative : State :=
  setFlags State.reset { c := false, v := false, n := true, s := true, z := false }

theorem readReg_zeroRegsNegative (x : RegIdx) : readReg zeroRegsNegative x = 0#8 := by
  simp [readReg, zeroRegsNegative, State.reset]

theorem signRelation_zeroRegsNegative : SignRelation zeroRegsNegative.flags := rfl

/-- From that one state each of the five, on any operand fields, ends with the relation broken. -/
theorem WritesNZOnly.breaks_signRelation {i : Instr} (hi : WritesNZOnly i) :
    ∃ t, exec i zeroRegsNegative = .next t ∧ ¬ SignRelation t.flags := by
  obtain ⟨r, o, hexec, hflags, hzero⟩ := hi.exec_eq zeroRegsNegative
  refine ⟨_, hexec, ?_⟩
  have hresult : o.result = 0#8 := hzero readReg_zeroRegsNegative
  rw [latchAlu_flags, hflags, hresult, signRelation_flagsNZ_iff _ _ signRelation_zeroRegsNegative]
  decide

/-- Settles O18: ADD and SUB write S from the N and V of one result; the other five keep S and V, and break the relation by clearing N
in the state `zeroRegsNegative`. -/
theorem signRelationHoldsAfterAddSubAndCanBreakLater : Obligations.SignRelationHoldsAfterAddSubAndCanBreakLater := by
  refine ⟨?_, ?_, ?_⟩
  · rintro r1 r2 s t (hadd | hsub)
    · exact signRelation_of_exec_add r1 r2 s t hadd
    · exact signRelation_of_exec_sub r1 r2 s t hsub
  · intro r1 r2 imm i s t hi
    exact (writesNZOnly_of_eq hi).keeps_s_v s t
  · intro r1 r2 low i hi
    obtain ⟨t, hexec, hbroken⟩ := (writesNZOnly_of_eq hi).breaks_signRelation
    exact ⟨zeroRegsNegative, t, signRelation_zeroRegsNegative, hexec, hbroken⟩

end Sys2Proof.Machine

/-! PROOFS. The opcode map and the NOP tag (30_encoding.md R51 to R59): what the word of given fields decodes to, one lemma a class of
operands. -/

namespace Sys2Proof.Machine

/-! ### The two classes of operands (30_encoding.md R52) -/

/-- The record of a word that carries the given fields and is not the NOP word. -/
def fieldsDecoded (op : Opcode) (r1 low : RegIdx) (imm : Byte) : Decoded :=
  { nop := false, opcode := op, r1 := r1, r2 := low, imm := imm }

/-- Outside the two shift opcodes dispatch sees the sign-extended field (R53), and the low field itself as second register. -/
theorem decodeInstr_packFields_signed (op : Opcode) (r1 low : RegIdx) (hclass : ¬ (op = 8#4 ∨ op = 9#4))
    (hnop : ¬ (op = 15#4 ∧ r1 = 63#6 ∧ low = 63#6)) :
    decodeInstr (packFields op r1 low) = (fieldsDecoded op r1 low (low.signExtend 8)).instr := by
  rw [decodeInstr, decode_packFields op r1 low hnop, if_neg hclass, signedImm_eq_signExtend, fieldsDecoded]

/-- The two shift opcodes get the zero-extended field (R54). -/
theorem decodeInstr_packFields_shift (op : Opcode) (r1 low : RegIdx) (hclass : op = 8#4 ∨ op = 9#4) :
    decodeInstr (packFields op r1 low) = (fieldsDecoded op r1 low (low.zeroExtend 8)).instr := by
  have hnop : ¬ (op = 15#4 ∧ r1 = 63#6 ∧ low = 63#6) := by
    rcases hclass with rfl | rfl <;> simp
  rw [decodeInstr, decode_packFields op r1 low hnop, if_pos hclass, shiftImm_eq_zeroExtend, fieldsDecoded]

/-- Opcodes 0 to 7 and 10 to 14: no word of theirs is the NOP word, so the map needs no side condition on the fields. -/
theorem decodeInstr_packFields_of_opcode (op : Opcode) (hop : op ≠ 8#4 ∧ op ≠ 9#4 ∧ op ≠ 15#4) (r1 low : RegIdx) :
    decodeInstr (packFields op r1 low) = (fieldsDecoded op r1 low (low.signExtend 8)).instr := by
  obtain ⟨h8, h9, h15⟩ := hop
  exact decodeInstr_packFields_signed op r1 low (not_or.mpr ⟨h8, h9⟩) fun h => h15 h.1

/-- Opcode 15 is unrecognized, except that the whole word of ones is NOP (R56, R58, R59). -/
theorem decodeInstr_packFields_fifteen (r1 low : RegIdx) :
    decodeInstr (packFields 15#4 r1 low) = if r1 = 63#6 ∧ low = 63#6 then .nop else .unrecognized15 r1 low := by
  split
  · next hones => rw [(packFields_eq_nopWord 15#4 r1 low).mpr ⟨rfl, hones⟩, decodeInstr_nopWord]
  · next hones => exact decodeInstr_packFields_signed 15#4 r1 low (by decide) fun h => hones h.2

/-- Settles O32: the class lemma of each opcode, read at that opcode's arm of the dispatch. -/
theorem decodeFollowsTheOpcodeMap : Obligations.DecodeFollowsTheOpcodeMap := by
  intro r1 low
  exact ⟨
    decodeInstr_packFields_of_opcode 0#4 (by decide) r1 low,
    decodeInstr_packFields_of_opcode 1#4 (by decide) r1 low,
    decodeInstr_packFields_of_opcode 2#4 (by decide) r1 low,
    decodeInstr_packFields_of_opcode 3#4 (by decide) r1 low,
    decodeInstr_packFields_of_opcode 4#4 (by decide) r1 low,
    decodeInstr_packFields_of_opcode 5#4 (by decide) r1 low,
    decodeInstr_packFields_of_opcode 6#4 (by decide) r1 low,
    decodeInstr_packFields_of_opcode 7#4 (by decide) r1 low,
    decodeInstr_packFields_shift 8#4 r1 low (.inl rfl),
    decodeInstr_packFields_shift 9#4 r1 low (.inr rfl),
    decodeInstr_packFields_of_opcode 10#4 (by decide) r1 low,
    decodeInstr_packFields_of_opcode 11#4 (by decide) r1 low,
    decodeInstr_packFields_of_opcode 12#4 (by decide) r1 low,
    decodeInstr_packFields_of_opcode 13#4 (by decide) r1 low,
    decodeInstr_packFields_of_opcode 14#4 (by decide) r1 low,
    decodeInstr_packFields_fifteen r1 low⟩

/-! ### The NOP tag (30_encoding.md R56, R59) -/

theorem decode_nop_iff (w : Word) : (decode w).nop = true ↔ w = Config.nopWord := by
  constructor
  · intro htag
    by_contra hne
    rw [decode_of_ne w hne] at htag
    cases htag
  · rintro rfl
    rw [decode_nopWord]
    rfl

/-- Settles O13: only the sentinel word takes the decoder's tagged case, and the instruction it selects is the identity. -/
theorem nopWordAloneIsTaggedAndDoesNothing : Obligations.NopWordAloneIsTaggedAndDoesNothing :=
  ⟨decode_nop_iff, by decide, decodeInstr_nopWord, rfl, exec_nop⟩

end Sys2Proof.Machine

/-! PROOFS. The carry flag (40_arithmetic.md R71): what ADD writes into it, and that no other instruction writes it. -/

namespace Sys2Proof.Machine

/-! ### ADD -/

/-- The ninth bit of the sum of two zero-extended bytes says that the sum does not fit a byte: nothing wraps at 9 bits. -/
theorem getLsbD_eight_zeroExtend_add_iff (a b : Byte) :
    (a.zeroExtend 9 + b.zeroExtend 9).getLsbD 8 = true ↔ 255 < a.toNat + b.toNat := by
  have ha := a.isLt
  have hb := b.isLt
  have htoNat : (a.zeroExtend 9 + b.zeroExtend 9).toNat = a.toNat + b.toNat := by
    rw [BitVec.toNat_add, BitVec.toNat_setWidth, BitVec.toNat_setWidth]
    omega
  have hmsb : (a.zeroExtend 9 + b.zeroExtend 9).getLsbD 8 = (a.zeroExtend 9 + b.zeroExtend 9).msb :=
    (BitVec.msb_eq_getLsbD_last _).symm
  rw [hmsb, BitVec.msb_eq_decide, htoNat, decide_eq_true_iff]
  omega

theorem carryFlag_eq_getLsbD_eight (a b : Byte) : carryFlag a b = (a.zeroExtend 9 + b.zeroExtend 9).getLsbD 8 :=
  Bool.eq_iff_iff.mpr ((carryFlag_iff a b).trans (getLsbD_eight_zeroExtend_add_iff a b).symm)

theorem carry_of_exec_add (r1 r2 : RegIdx) (s t : State) (h : exec (.add r1 r2) s = .next t) :
    t.flags.c = carryFlag (readReg s r1) (readReg s r2) := by
  rw [exec_add] at h
  rw [← next_inj h, latchAlu_flags]
  rfl

/-! ### Every other instruction -/

/-- SREG is written only together with a destination register. -/
theorem exec_keeps_flags_of_no_destination {i : Instr} (hi : destination i = none) (s t : State) (h : exec i s = .next t) :
    t.flags = s.flags := by
  rcases exec_cases i s t h with rfl | ⟨r, o, hr, _⟩ | ⟨_, _, _, _, _, rfl⟩ | ⟨_, _, _, _, _, rfl⟩ | ⟨_, _, _, _, _, rfl⟩ |
    ⟨_, _, _, _, _, rfl⟩ | ⟨_, _, _, rfl⟩
  case inr.inl =>
    rw [hi] at hr
    cases hr
  all_goals rfl

theorem exec_ldr_keeps_flags (r1 : RegIdx) (imm : Byte) (s t : State) (h : exec (.ldr r1 imm) s = .next t) :
    t.flags = s.flags := by
  rcases ldr_cases r1 imm s t h with ⟨a, _, rfl⟩ | ⟨_, rfl⟩
  · exact writeReg_flags s r1 (readData s a)
  · rfl

theorem exec_movi_keeps_flags (r1 : RegIdx) (imm : Byte) (s t : State) (h : exec (.movi r1 imm) s = .next t) :
    t.flags = s.flags := by
  rw [exec_movi] at h
  rw [← next_inj h, latchAlu_flags]
  rfl

/-- There is no borrow flag. -/
theorem exec_sub_keeps_carry (r1 r2 : RegIdx) (s t : State) (h : exec (.sub r1 r2) s = .next t) :
    t.flags.c = s.flags.c := by
  rw [exec_sub] at h
  rw [← next_inj h, latchAlu_flags]
  rfl

theorem WritesNZOnly.keeps_carry {i : Instr} (hi : WritesNZOnly i) (s t : State) (h : exec i s = .next t) :
    t.flags.c = s.flags.c := by
  obtain ⟨r, o, hexec, hflags, _⟩ := hi.exec_eq s
  rw [hexec] at h
  rw [← next_inj h, latchAlu_flags, hflags]
  rfl

theorem exec_keeps_carry_of_ne_add (i : Instr) (hi : ∀ r1 r2, i ≠ .add r1 r2) (s t : State) (h : exec i s = .next t) :
    t.flags.c = s.flags.c := by
  cases i with
  | add r1 r2 => exact absurd rfl (hi r1 r2)
  | sub r1 r2 => exact exec_sub_keeps_carry r1 r2 s t h
  | mul r1 r2 => exact (WritesNZOnly.mul r1 r2).keeps_carry s t h
  | andi r1 imm => exact (WritesNZOnly.andi r1 imm).keeps_carry s t h
  | eor r1 r2 => exact (WritesNZOnly.eor r1 r2).keeps_carry s t h
  | sal r1 shamt => exact (WritesNZOnly.sal r1 shamt).keeps_carry s t h
  | sar r1 shamt => exact (WritesNZOnly.sar r1 shamt).keeps_carry s t h
  | movi r1 imm => exact congrArg Flags.c (exec_movi_keeps_flags r1 imm s t h)
  | ldr r1 imm => exact congrArg Flags.c (exec_ldr_keeps_flags r1 imm s t h)
  | nop | beqz | br | str | unrecognized12 | unrecognized13 | unrecognized14 | unrecognized15 =>
    exact congrArg Flags.c (exec_keeps_flags_of_no_destination rfl s t h)

/-- Settles O15: ADD writes `carryFlag`, which is the ninth bit of the sum; the other sixteen instructions keep C. -/
theorem carryIsWrittenByAddAlone : Obligations.CarryIsWrittenByAddAlone := by
  intro i s t h
  refine ⟨?_, fun hi => exec_keeps_carry_of_ne_add i hi s t h⟩
  rintro r1 r2 rfl
  have hc := carry_of_exec_add r1 r2 s t h
  exact ⟨hc.trans (carryFlag_eq_getLsbD_eight _ _), hc ▸ carryFlag_iff _ _⟩

end Sys2Proof.Machine

/-! PROOFS. MOVI, ANDI and EOR (41_move_logic.md R80 to R82): all three latch an ALU output into the register that `r1` names, so what
the latch keeps, and what N and Z are after it, is said once. -/

namespace Sys2Proof.Machine

/-! ### What latching an ALU output leaves alone -/

theorem regsKeptBut_latchAlu (s : State) (r : RegIdx) (o : AluOut) : RegsKeptBut r s (latchAlu s r o) :=
  fun r' hne => readReg_latchAlu_other s r r' o hne

theorem controlKept_latchAlu (s : State) (r : RegIdx) (o : AluOut) : ControlKept s (latchAlu s r o) :=
  ⟨latchAlu_pc s r o, latchAlu_ifBuf s r o, latchAlu_idBuf s r o, latchAlu_skip s r o⟩

theorem schedulerKept_latchAlu (s : State) (r : RegIdx) (o : AluOut) : SchedulerKept s (latchAlu s r o) :=
  ⟨latchAlu_ex s r o, latchAlu_drain s r o, latchAlu_sched s r o⟩

/-- The part of the frame that does not speak of registers or flags. -/
theorem latchAlu_frame (s : State) (r : RegIdx) (o : AluOut) :
    ControlKept s (latchAlu s r o) ∧ SchedulerKept s (latchAlu s r o) ∧ DataKept s (latchAlu s r o) ∧
      CodeKept s (latchAlu s r o) :=
  ⟨controlKept_latchAlu s r o, schedulerKept_latchAlu s r o, readData_latchAlu s r o, readInstr_latchAlu s r o⟩

/-! ### The flags after an operation that writes N and Z alone (10_state.md R18, 40_arithmetic.md R73) -/

theorem flagsNZ_keeps_c_v_s (f : Flags) (r : Byte) :
    (flagsNZ f r).c = f.c ∧ (flagsNZ f r).v = f.v ∧ (flagsNZ f r).s = f.s :=
  ⟨rfl, rfl, rfl⟩

theorem flagsNZ_n (f : Flags) (r : Byte) : (flagsNZ f r).n = r.msb := signBit_eq_msb r

theorem flagsNZ_z (f : Flags) (r : Byte) : (flagsNZ f r).z = decide (r = 0#8) := rfl

/-- N and Z are those of the byte the destination reads after the latch. -/
theorem latchAlu_flags_of_flagsNZ (s : State) (r : RegIdx) (o : AluOut) (ho : o.flags = flagsNZ s.flags o.result) :
    (latchAlu s r o).flags.c = s.flags.c ∧ (latchAlu s r o).flags.v = s.flags.v ∧
      (latchAlu s r o).flags.s = s.flags.s ∧
      (latchAlu s r o).flags.n = (readReg (latchAlu s r o) r).msb ∧
      (latchAlu s r o).flags.z = decide (readReg (latchAlu s r o) r = 0#8) := by
  obtain ⟨hc, hv, hs⟩ := flagsNZ_keeps_c_v_s s.flags o.result
  rw [latchAlu_flags, readReg_latchAlu_self, ho]
  exact ⟨hc, hv, hs, flagsNZ_n s.flags o.result, flagsNZ_z s.flags o.result⟩

/-! ### The words of the two instructions with a signed immediate (30_encoding.md R51, R53, R64) -/

theorem encode_movi_signedImm (r1 low : RegIdx) : encode (.movi r1 (signedImm low)) = 3#4 ++ r1 ++ low := by
  rw [encode, lowOfImm_signedImm, packFields]

theorem encode_andi_signedImm (r1 low : RegIdx) : encode (.andi r1 (signedImm low)) = 5#4 ++ r1 ++ low := by
  rw [encode, lowOfImm_signedImm, packFields]

/-! ### The three instructions -/

/-- Settles O4: the byte latched is the decoder's immediate, which is the sign extension of the field, and the flags latched are the
old ones. -/
theorem moviLoadsSignedImmediate : Obligations.MoviLoadsSignedImmediate := by
  intro r1 low s
  have hread : readReg (latchAlu s r1 (aluMovi s.flags (signedImm low))) r1 = signedImm low :=
    (readReg_latchAlu_self s r1 _).trans (aluMovi_result s.flags _)
  refine ⟨_, exec_movi r1 _ s, encode_movi_signedImm r1 low, ?value, ?signedValue, regsKeptBut_latchAlu s r1 _, ?flags,
    latchAlu_frame s r1 _⟩
  case value => rw [hread, signedImm_eq_signExtend]
  case signedValue => rw [hread, signedImm_toInt]
  case flags => exact latchAlu_flags s r1 _

/-- Settles O5: the latched byte is the conjunction with the sign-extended field, and its N and Z are the only flags written. -/
theorem andiMasksWithSignedImmediate : Obligations.AndiMasksWithSignedImmediate := by
  intro r1 low s
  obtain ⟨hc, hv, hs, hn, hz⟩ :=
    latchAlu_flags_of_flagsNZ s r1 (aluAndi s.flags (readReg s r1) (signedImm low)) rfl
  refine ⟨_, exec_andi r1 _ s, encode_andi_signedImm r1 low, ?value, regsKeptBut_latchAlu s r1 _, hc, hv, hs, hn, hz,
    latchAlu_frame s r1 _⟩
  rw [readReg_latchAlu_self, aluAndi_result, signedImm_eq_signExtend]

/-- Settles O6: both operands are read before the latch, so with `r1 = r2` the result is a byte xored with itself. -/
theorem eorXorsTwoRegisters : Obligations.EorXorsTwoRegisters := by
  intro r1 r2 s
  have hread : readReg (latchAlu s r1 (aluEor s.flags (readReg s r1) (readReg s r2))) r1 = readReg s r1 ^^^ readReg s r2 :=
    (readReg_latchAlu_self s r1 _).trans (aluEor_result s.flags _ _)
  obtain ⟨hc, hv, hs, hn, hz⟩ :=
    latchAlu_flags_of_flagsNZ s r1 (aluEor s.flags (readReg s r1) (readReg s r2)) rfl
  refine ⟨_, exec_eor r1 r2 s, rfl, hread, ?sameRegister, regsKeptBut_latchAlu s r1 _, hc, hv, hs, hn, hz,
    latchAlu_frame s r1 _⟩
  rintro rfl
  exact hread.trans BitVec.xor_self

end Sys2Proof.Machine

/-! PROOFS. Decoder and encoder are inverse to each other (30_encoding.md sections 3 to 5), and the encoding as arithmetic on the
fields. -/

namespace Sys2Proof.Machine

/-! ### The opcode field -/

/-- The sixteen values of an opcode field, for a case split along the rows of 30_encoding.md R57. -/
theorem opcode_cases : ∀ op : Opcode,
    op = 0#4 ∨ op = 1#4 ∨ op = 2#4 ∨ op = 3#4 ∨ op = 4#4 ∨ op = 5#4 ∨ op = 6#4 ∨ op = 7#4 ∨
    op = 8#4 ∨ op = 9#4 ∨ op = 10#4 ∨ op = 11#4 ∨ op = 12#4 ∨ op = 13#4 ∨ op = 14#4 ∨ op = 15#4 := by decide

/-! ### Decoding after encoding -/

/-- Opcodes 3, 4, 5, 10 and 11: the immediate comes back if it is in range. -/
theorem decodeInstr_packFields_lowOfImm (op : Opcode) (hop : op ≠ 8#4 ∧ op ≠ 9#4 ∧ op ≠ 15#4) (r1 : RegIdx) (imm : Byte)
    (himm : immInRange imm = true) :
    decodeInstr (packFields op r1 (lowOfImm imm)) = (fieldsDecoded op r1 (lowOfImm imm) imm).instr := by
  rw [decodeInstr_packFields_of_opcode op hop, ← signedImm_eq_signExtend, signedImm_lowOfImm imm himm]

/-- Opcodes 8 and 9: the shift amount comes back if it is in range. -/
theorem decodeInstr_packFields_lowOfShamt (op : Opcode) (hop : op = 8#4 ∨ op = 9#4) (r1 : RegIdx) (shamt : Byte)
    (hshamt : shamtInRange shamt = true) :
    decodeInstr (packFields op r1 (lowOfImm shamt)) = (fieldsDecoded op r1 (lowOfImm shamt) shamt).instr := by
  rw [decodeInstr_packFields_shift op r1 _ hop, ← shiftImm_eq_zeroExtend, shiftImm_lowOfImm shamt hshamt]

/-- Settles O29: the class lemma of each constructor's operands, read at the arm of its opcode; the one word that opcode 15 does not
have is NOP's. -/
theorem decodeOfEncodeIsIdentity : Obligations.DecodeOfEncodeIsIdentity := by
  intro i hwf
  cases i with
  | nop => exact decodeInstr_nopWord
  | add r1 r2 => exact decodeInstr_packFields_of_opcode 0#4 (by decide) r1 r2
  | sub r1 r2 => exact decodeInstr_packFields_of_opcode 1#4 (by decide) r1 r2
  | mul r1 r2 => exact decodeInstr_packFields_of_opcode 2#4 (by decide) r1 r2
  | movi r1 imm => exact decodeInstr_packFields_lowOfImm 3#4 (by decide) r1 imm hwf
  | beqz r1 imm => exact decodeInstr_packFields_lowOfImm 4#4 (by decide) r1 imm hwf
  | andi r1 imm => exact decodeInstr_packFields_lowOfImm 5#4 (by decide) r1 imm hwf
  | eor r1 r2 => exact decodeInstr_packFields_of_opcode 6#4 (by decide) r1 r2
  | br r1 r2 => exact decodeInstr_packFields_of_opcode 7#4 (by decide) r1 r2
  | sal r1 shamt => exact decodeInstr_packFields_lowOfShamt 8#4 (.inl rfl) r1 shamt hwf
  | sar r1 shamt => exact decodeInstr_packFields_lowOfShamt 9#4 (.inr rfl) r1 shamt hwf
  | ldr r1 imm => exact decodeInstr_packFields_lowOfImm 10#4 (by decide) r1 imm hwf
  | str r1 imm => exact decodeInstr_packFields_lowOfImm 11#4 (by decide) r1 imm hwf
  | unrecognized12 r1 low => exact decodeInstr_packFields_of_opcode 12#4 (by decide) r1 low
  | unrecognized13 r1 low => exact decodeInstr_packFields_of_opcode 13#4 (by decide) r1 low
  | unrecognized14 r1 low => exact decodeInstr_packFields_of_opcode 14#4 (by decide) r1 low
  | unrecognized15 r1 low =>
    have hne : ¬ (r1 = 63#6 ∧ low = 63#6) := of_decide_eq_true hwf
    exact (decodeInstr_packFields_fifteen r1 low).trans (if_neg hne)

/-! ### Encoding after decoding -/

/-- The instruction is well formed and `w` is its word. -/
def HasWord (i : Instr) (w : Word) : Prop := i.wellFormed = true ∧ encode i = w

section HasWord
variable (r1 low : RegIdx)

/-- A constructor with a signed immediate: the sign-extended field is in range, and its low bits are the field. -/
theorem hasWord_of_signed (op : Opcode) (i : Byte → Instr) (hwf : ∀ imm, (i imm).wellFormed = immInRange imm)
    (henc : ∀ imm, encode (i imm) = packFields op r1 (lowOfImm imm)) :
    HasWord (i (low.signExtend 8)) (packFields op r1 low) := by
  rw [← signedImm_eq_signExtend]
  exact ⟨(hwf _).trans (immInRange_signedImm low), by rw [henc, lowOfImm_signedImm]⟩

/-- A constructor with a shift amount: the zero-extended field is in range, and its low bits are the field. -/
theorem hasWord_of_shift (op : Opcode) (i : Byte → Instr) (hwf : ∀ shamt, (i shamt).wellFormed = shamtInRange shamt)
    (henc : ∀ shamt, encode (i shamt) = packFields op r1 (lowOfImm shamt)) :
    HasWord (i (low.zeroExtend 8)) (packFields op r1 low) := by
  rw [← shiftImm_eq_zeroExtend]
  exact ⟨(hwf _).trans (shamtInRange_shiftImm low), by rw [henc, lowOfImm_shiftImm]⟩

theorem hasWord_fifteen :
    HasWord (if r1 = 63#6 ∧ low = 63#6 then .nop else .unrecognized15 r1 low) (packFields 15#4 r1 low) := by
  split
  · next hones => exact ⟨rfl, ((packFields_eq_nopWord 15#4 r1 low).mpr ⟨rfl, hones⟩).symm⟩
  · next hones => exact ⟨decide_eq_true hones, rfl⟩

end HasWord

/-- Whatever its fields, a packed word is the word of the instruction that it decodes to. -/
theorem hasWord_decodeInstr_packFields (op : Opcode) (r1 low : RegIdx) :
    HasWord (decodeInstr (packFields op r1 low)) (packFields op r1 low) := by
  obtain ⟨h0, h1, h2, h3, h4, h5, h6, h7, h8, h9, h10, h11, h12, h13, h14, h15⟩ := decodeFollowsTheOpcodeMap r1 low
  rcases opcode_cases op with rfl | rfl | rfl | rfl | rfl | rfl | rfl | rfl | rfl | rfl | rfl | rfl | rfl | rfl | rfl | rfl
  · exact h0 ▸ ⟨rfl, rfl⟩
  · exact h1 ▸ ⟨rfl, rfl⟩
  · exact h2 ▸ ⟨rfl, rfl⟩
  · exact h3 ▸ hasWord_of_signed r1 low 3#4 (.movi r1) (fun _ => rfl) (fun _ => rfl)
  · exact h4 ▸ hasWord_of_signed r1 low 4#4 (.beqz r1) (fun _ => rfl) (fun _ => rfl)
  · exact h5 ▸ hasWord_of_signed r1 low 5#4 (.andi r1) (fun _ => rfl) (fun _ => rfl)
  · exact h6 ▸ ⟨rfl, rfl⟩
  · exact h7 ▸ ⟨rfl, rfl⟩
  · exact h8 ▸ hasWord_of_shift r1 low 8#4 (.sal r1) (fun _ => rfl) (fun _ => rfl)
  · exact h9 ▸ hasWord_of_shift r1 low 9#4 (.sar r1) (fun _ => rfl) (fun _ => rfl)
  · exact h10 ▸ hasWord_of_signed r1 low 10#4 (.ldr r1) (fun _ => rfl) (fun _ => rfl)
  · exact h11 ▸ hasWord_of_signed r1 low 11#4 (.str r1) (fun _ => rfl) (fun _ => rfl)
  · exact h12 ▸ ⟨rfl, rfl⟩
  · exact h13 ▸ ⟨rfl, rfl⟩
  · exact h14 ▸ ⟨rfl, rfl⟩
  · exact h15 ▸ hasWord_fifteen r1 low

/-- Settles O30: a word is its packed fields, and these go through the opcode map and back. -/
theorem encodeOfDecodeIsIdentity : Obligations.EncodeOfDecodeIsIdentity := by
  intro w
  have h := hasWord_decodeInstr_packFields (opcodeField w) (r1Field w) (lowField w)
  rwa [packFields_fields] at h

/-! ### The encoding as a number (30_encoding.md R64) -/

theorem lowOfImm_toNat (imm : Byte) : (lowOfImm imm).toNat = imm.toNat % 64 := by
  simp [lowOfImm, BitVec.extractLsb'_toNat]

/-- The low field of an immediate is the signed immediate modulo 64. -/
theorem lowOfImm_toNat_eq_toInt_emod (imm : Byte) : ((lowOfImm imm).toNat : Int) = imm.toInt % 64 := by
  rw [lowOfImm_toNat]
  rcases msb_toInt_cases imm with ⟨_, hi, _⟩ | ⟨_, hi, _⟩ <;> omega

/-- The word of an instruction with a signed immediate, as a number. -/
theorem packFields_lowOfImm_toNat (op : Opcode) (r1 : RegIdx) (imm : Byte) :
    ((packFields op r1 (lowOfImm imm)).toNat : Int) = op.toNat * 4096 + r1.toNat * 64 + imm.toInt % 64 := by
  rw [packFields_toNat, ← lowOfImm_toNat_eq_toInt_emod]
  push_cast
  rfl

/-- The word of a shift, as a number. -/
theorem packFields_lowOfShamt_toNat (op : Opcode) (r1 : RegIdx) (shamt : Byte) (h : shamtInRange shamt = true) :
    (packFields op r1 (lowOfImm shamt)).toNat = op.toNat * 4096 + r1.toNat * 64 + shamt.toNat := by
  have hle : shamt.toNat ≤ 63 := of_decide_eq_true h
  rw [packFields_toNat, lowOfImm_toNat, Nat.mod_eq_of_lt (by omega)]

/-- A well-formed instruction is the only one with its word. -/
theorem encode_eq_iff (i : Instr) (hwf : i.wellFormed = true) (w : Word) : encode i = w ↔ i = decodeInstr w := by
  constructor
  · rintro rfl
    exact (decodeOfEncodeIsIdentity i hwf).symm
  · rintro rfl
    exact (encodeOfDecodeIsIdentity w).2

/-- Settles O31: each word is a packing of its fields; the two uniqueness clauses are injectivity at the words 0x0000 and 0xFFFF. -/
theorem encodeIsFieldArithmetic : Obligations.EncodeIsFieldArithmetic := by
  refine ⟨fun r1 r2 => ?registers, fun r1 imm _ => ?immediates, fun r1 shamt h => ?shifts, fun i hwf => ?unique⟩
  case registers =>
    exact ⟨packFields_toNat 0#4 r1 r2, packFields_toNat 1#4 r1 r2, packFields_toNat 2#4 r1 r2, packFields_toNat 6#4 r1 r2,
      packFields_toNat 7#4 r1 r2⟩
  case immediates =>
    exact ⟨packFields_lowOfImm_toNat 3#4 r1 imm, packFields_lowOfImm_toNat 4#4 r1 imm, packFields_lowOfImm_toNat 5#4 r1 imm,
      packFields_lowOfImm_toNat 10#4 r1 imm, packFields_lowOfImm_toNat 11#4 r1 imm⟩
  case shifts =>
    exact ⟨packFields_lowOfShamt_toNat 8#4 r1 shamt h, packFields_lowOfShamt_toNat 9#4 r1 shamt h⟩
  case unique => exact ⟨encode_eq_iff i hwf 0x0000#16, encode_eq_iff i hwf 0xFFFF#16⟩

/-- Settles O33: the decoder evaluated on each of the twelve words. -/
theorem specExampleWordsDecode : Obligations.SpecExampleWordsDecode := by
  unfold Obligations.SpecExampleWordsDecode
  decide

/-! ### What an executed record emits (60_exceptions.md R132, R133) -/

/-- Only the opcodes from 12 on and the two memory opcodes can emit an event. -/
theorem emitted_fieldsDecoded_instr (op : Opcode) (r1 low : RegIdx) (imm : Byte) :
    emitted (fieldsDecoded op r1 low imm).instr =
      if 12 ≤ op.toNat then some (.unrecognizedOpcode op)
      else if op = 10#4 then indexDiagnostic .ldr imm
      else if op = 11#4 then indexDiagnostic .str imm
      else none := by
  rcases opcode_cases op with rfl | rfl | rfl | rfl | rfl | rfl | rfl | rfl | rfl | rfl | rfl | rfl | rfl | rfl | rfl | rfl <;>
    rfl

theorem exec_fieldsDecoded_of_unrecognized (op : Opcode) (r1 low : RegIdx) (imm : Byte) (hop : 12 ≤ op.toNat) (s : State) :
    exec (fieldsDecoded op r1 low imm).instr s = .next s := by
  have hlast : ∀ o : Opcode, 12 ≤ o.toNat → o = 12#4 ∨ o = 13#4 ∨ o = 14#4 ∨ o = 15#4 := by decide
  rcases hlast op hop with rfl | rfl | rfl | rfl
  · exact exec_unrecognized12 r1 low s
  · exact exec_unrecognized13 r1 low s
  · exact exec_unrecognized14 r1 low s
  · exact exec_unrecognized15 r1 low s

/-- Outside the shifts and NOP, the record of a word by its fields. -/
theorem decode_eq_fieldsDecoded (w : Word) (hw : w ≠ 0xFFFF#16) (hop : ¬ (opcodeField w = 8#4 ∨ opcodeField w = 9#4)) :
    decode w = fieldsDecoded (opcodeField w) (r1Field w) (lowField w) (signedImm (lowField w)) := by
  rw [decode_of_ne w hw, if_neg hop, fieldsDecoded]

/-- Settles O14: the record of such a word is `fieldsDecoded` of its fields, whose execution is the identity. -/
theorem unrecognizedOpcodesChangeNothingAndReport : Obligations.UnrecognizedOpcodesChangeNothingAndReport := by
  refine ⟨fun w hop hw => ?_, fun r1 low s =>
    ⟨exec_unrecognized12 r1 low s, exec_unrecognized13 r1 low s, exec_unrecognized14 r1 low s, exec_unrecognized15 r1 low s⟩⟩
  have hlarge : 12 ≤ (opcodeField w).toNat := hop
  have hshift : ∀ o : Opcode, 12 ≤ o.toNat → ¬ (o = 8#4 ∨ o = 9#4) := by decide
  have hdecode := decode_eq_fieldsDecoded w hw (hshift _ hlarge)
  rw [decodeInstr, hdecode]
  exact ⟨rfl, rfl, (emitted_fieldsDecoded_instr _ _ _ _).trans (if_pos hlarge),
    exec_fieldsDecoded_of_unrecognized _ _ _ _ hlarge⟩

end Sys2Proof.Machine

/-! PROOFS. The step as one layer: every instruction and every step answers a next state, what a step leaves to the phases around the
execute stage, and the cycle in which no instruction acts. -/

namespace Sys2Proof.Machine

/-! ### Totality (60_exceptions.md R130) -/

theorem exec_answers_next (i : Instr) (s : State) : ∃ t, exec i s = .next t := by
  cases i <;> exact ⟨_, rfl⟩

theorem step_answers_next (s : State) : ∃ t, step s = .next t := by
  by_cases hh : s.sched = .halted
  · exact ⟨s, step_halted s hh⟩
  · by_cases hk : 0 < s.skip
    · exact ⟨_, step_elided s hh hk⟩
    · obtain ⟨m, hm⟩ := exec_answers_next (beforeExecute s).ex.instr (beforeExecute s)
      refine ⟨countdownPhase m, ?_⟩
      rw [step_running s hh, executePhase_runs _ (by rw [beforeExecute_skip]; omega), hm, afterNext_next]

/-- Settles O25: every constructor has an arm that answers a next state, and so has every step, by induction every run. -/
theorem everyInstructionAndRunAnswersNext : Obligations.EveryInstructionAndRunAnswersNext := by
  refine ⟨exec_answers_next, fun n => ?_⟩
  induction n with
  | zero => exact fun s => ⟨s, runCycles_zero s⟩
  | succ n ih =>
    intro s
    obtain ⟨m, hm⟩ := step_answers_next s
    obtain ⟨t, ht⟩ := ih m
    exact ⟨t, (runCycles_succ n s m hm).trans ht⟩

/-! ### Which instruction executes (46_pipeline.md R110, R114) -/

theorem executing_eq_some_iff (s : State) (i : Instr) :
    executing s = some i ↔ s.sched ≠ .halted ∧ s.skip ≤ 0 ∧ decodeInstr s.idBuf = i := by
  unfold executing
  split
  · next h =>
    refine iff_of_false (by simp) fun ⟨hh, hk, _⟩ => ?_
    rcases h with hh' | hk'
    · exact hh hh'
    · omega
  · next h =>
    obtain ⟨hh, hk⟩ := not_or.mp h
    simp [hh, not_lt.mp hk]

theorem executing_eq_none_iff (s : State) : executing s = none ↔ s.sched = .halted ∨ 0 < s.skip := by
  unfold executing
  split
  · next h => simp [h]
  · next h => simp [h]

/-- The step of a core that executes an instruction is that instruction's execution between the other phases. -/
theorem step_of_executing (s t : State) (i : Instr) (hi : executing s = some i) (h : step s = .next t) :
    ∃ m, exec i (beforeExecute s) = .next m ∧ t = countdownPhase m := by
  rcases step_cases s t h with ⟨_, hnone, _⟩ | ⟨_, _, hnone, _⟩ | ⟨_, _, hsome, m, hm, ht⟩
  · rw [hnone] at hi; cases hi
  · rw [hnone] at hi; cases hi
  · rw [hsome] at hi; cases hi; exact ⟨m, hm, ht⟩

/-! ### What phase 3 leaves to the other phases -/

/-- Phase 3 of a cycle from `s` can end in `m`: the cycle is elided, or the instruction in ID executes. -/
inductive ExecuteStage (s : State) : State → Prop
  | elided (hskip : 0 < s.skip) (hnone : executing s = none) : ExecuteStage s (setSkip (beforeExecute s) (s.skip - 1))
  | executed {m : State} (hskip : s.skip ≤ 0) (hsome : executing s = some (decodeInstr s.idBuf))
      (hexec : exec (decodeInstr s.idBuf) (beforeExecute s) = .next m) : ExecuteStage s m

theorem step_executeStage (s t : State) (hh : s.sched ≠ .halted) (h : step s = .next t) :
    ∃ m, ExecuteStage s m ∧ t = countdownPhase m := by
  rcases step_cases s t h with ⟨hhalted, _⟩ | ⟨_, hk, hnone, ht⟩ | ⟨_, hk, hsome, m, hm, ht⟩
  · exact absurd hhalted hh
  · exact ⟨_, .elided hk hnone, ht⟩
  · exact ⟨m, .executed hk hsome hm, ht⟩

namespace ExecuteStage
variable {s m : State}

theorem keeps_code_ex_sched (h : ExecuteStage s m) :
    m.imem = s.imem ∧ m.ex = decode s.idBuf ∧ m.sched = (beforeExecute s).sched ∧ m.drain = (beforeExecute s).drain := by
  cases h with
  | elided => simp
  | executed _ _ hexec => simpa using exec_scheduler_kept _ _ _ hexec

/-- A flush overwrites both raw buffers, and else they and `pc` are as the shift left them. -/
theorem buffers (h : ExecuteStage s m) :
    ((∃ i, executing s = some i ∧ Flushes s i) ∧ m.ifBuf = 0xFFFF#16 ∧ m.idBuf = 0xFFFF#16) ∨
    ((∀ i, executing s = some i → ¬ Flushes s i) ∧ m.pc = fetchedPc s ∧ m.ifBuf = fetchedWord s ∧ m.idBuf = s.ifBuf) := by
  cases h with
  | elided _ hnone =>
    refine .inr ⟨fun i hi => ?_, by simp⟩
    rw [hnone] at hi
    cases hi
  | executed _ hsome hexec =>
    rcases exec_flush_cases _ _ _ hexec with ⟨hf, hbuf⟩ | ⟨hf, hbuf⟩ <;> rw [flushes_beforeExecute] at hf
    · exact .inl ⟨⟨_, hsome, hf⟩, hbuf⟩
    · refine .inr ⟨fun i hi => ?_, by simpa using hbuf⟩
      rw [hsome] at hi
      cases hi
      exact hf

end ExecuteStage

theorem step_keeps_imem (s t : State) (h : step s = .next t) : t.imem = s.imem := by
  by_cases hh : s.sched = .halted
  · rw [step_halted s hh] at h
    rw [next_inj h]
  · obtain ⟨m, hm, rfl⟩ := step_executeStage s t hh h
    rw [countdownPhase_imem, hm.keeps_code_ex_sched.1]

/-- Settles O24: no step writes instruction memory, and a run is steps. -/
theorem instructionMemoryNeverChangesInARun : Obligations.InstructionMemoryNeverChangesInARun := by
  intro n
  induction n with
  | zero => intro s t h; rw [next_inj h]
  | succ n ih =>
    intro s t h
    obtain ⟨m, hm, hrun⟩ := runCycles_succ_cases n s t h
    exact (ih m t hrun).trans (step_keeps_imem s m hm)

/-! ### The scheduler's table (46_pipeline.md R113, R118) -/

/-- The scheduler's fields after a cycle, by the word fetched and the fields before. -/
theorem step_sched_cases (s t : State) (hh : s.sched ≠ .halted) (h : step s = .next t) :
    (fetchedWord s ≠ 0xFFFF#16 ∧ t.sched = .running ∧ t.drain = 0) ∨
    (fetchedWord s = 0xFFFF#16 ∧ s.sched = .running ∧ t.sched = .draining ∧ t.drain = 1) ∨
    (fetchedWord s = 0xFFFF#16 ∧ s.sched = .draining ∧
      (s.drain ≤ 1 → t.drain = 0 ∧ t.sched = if fetchEmpty t then .halted else .running)) := by
  obtain ⟨m, hm, rfl⟩ := step_executeStage s t hh h
  obtain ⟨_, _, hsched, hdrain⟩ := hm.keeps_code_ex_sched
  rcases beforeExecute_sched s with ⟨hw, hq, hd⟩ | ⟨hw, hr, hq, hd⟩ | ⟨hw, hr, hq, hd⟩
  · have hrun : m.sched = .running := hsched.trans hq
    rw [countdownPhase_idle m (by simp [hrun])]
    exact .inl ⟨hw, hrun, hdrain.trans hd⟩
  · rw [countdownPhase_more m (hsched.trans hq) (by omega)]
    exact .inr (.inl ⟨hw, hr, rfl, by simp [hdrain, hd]⟩)
  · have hdraining : s.sched = .draining := by
      cases hs : s.sched with
      | running => exact absurd hs hr
      | draining => rfl
      | halted => exact absurd hs hh
    refine .inr (.inr ⟨hw, hdraining, fun hone => ?_⟩)
    rw [fetchEmpty_countdownPhase, countdownPhase_last m (by rw [hsched, hq, hdraining]) (by omega)]
    exact ⟨rfl, rfl⟩

/-- Settles O44: the three rows are the cases of `step_sched_cases`. -/
theorem schedulerFollowsItsTransitionTable : Obligations.SchedulerFollowsItsTransitionTable := by
  intro s t h hh
  rcases step_sched_cases s t hh h with ⟨hw, hq⟩ | ⟨hw, hr, hq⟩ | ⟨hw, hr, hq⟩
  · exact ⟨fun _ => hq, fun he => absurd he hw, fun he => absurd he hw⟩
  · exact ⟨fun hne => absurd hw hne, fun _ _ => hq, by simp [hr]⟩
  · exact ⟨fun hne => absurd hw hne, by simp [hr], fun _ _ hone => hq (le_of_eq hone)⟩

/-! ### A cycle in which no instruction acts -/

/-- What an idle cycle does to the skip counter: a positive one is decremented. -/
def idleSkip (k : Int) : Int := if 0 < k then k - 1 else k

theorem idleSkip_of_pos {k : Int} (h : 0 < k) : idleSkip k = k - 1 := if_pos h

theorem idleSkip_of_nonpos {k : Int} (h : k ≤ 0) : idleSkip k = k := if_neg (by omega)

/-- The state after a cycle that is elided or executes the NOP tag. -/
def idleCycle (s : State) : State := countdownPhase (setSkip (beforeExecute s) (idleSkip s.skip))

theorem step_idle (s : State) (hh : s.sched ≠ .halted) (hidle : 0 < s.skip ∨ s.idBuf = 0xFFFF#16) :
    step s = .next (idleCycle s) := by
  by_cases hk : 0 < s.skip
  · rw [step_elided s hh hk, idleCycle, idleSkip_of_pos hk]
  · have hid : s.idBuf = Config.nopWord := hidle.resolve_left hk
    have hskip : (beforeExecute s).skip ≤ 0 := by rw [beforeExecute_skip]; omega
    rw [step_running s hh, executePhase_runs _ hskip, beforeExecute_ex, hid, decode_nopWord, instr_nopDecoded, exec_nop,
      afterNext_next, idleCycle, idleSkip_of_nonpos (by omega), ← beforeExecute_skip]
    rfl

section IdleFields
variable (s : State)
@[simp] theorem idleCycle_regs : (idleCycle s).regs = s.regs := by simp [idleCycle]
@[simp] theorem idleCycle_flags : (idleCycle s).flags = s.flags := by simp [idleCycle]
@[simp] theorem idleCycle_pc : (idleCycle s).pc = fetchedPc s := by simp [idleCycle]
@[simp] theorem idleCycle_imem : (idleCycle s).imem = s.imem := by simp [idleCycle]
@[simp] theorem idleCycle_dmem : (idleCycle s).dmem = s.dmem := by simp [idleCycle]
@[simp] theorem idleCycle_ifBuf : (idleCycle s).ifBuf = fetchedWord s := by simp [idleCycle]
@[simp] theorem idleCycle_idBuf : (idleCycle s).idBuf = s.ifBuf := by simp [idleCycle]
@[simp] theorem idleCycle_skip : (idleCycle s).skip = idleSkip s.skip := by simp [idleCycle]
end IdleFields

end Sys2Proof.Machine

/-! PROOFS. The invariant between cycles (10_state.md section 4, 46_pipeline.md sections 1 and 4). -/

namespace Sys2Proof.Machine

/-! ### The parts of the invariant under the execute stage -/

theorem exec_keeps_memoriesWf (i : Instr) (s t : State) (hwf : MemoriesWf s) (h : exec i s = .next t) : MemoriesWf t := by
  rcases exec_cases i s t h with rfl | ⟨_, _, _, rfl⟩ | ⟨_, _, _, _, _, rfl⟩ | ⟨r, _, a, _, ha, rfl⟩ | ⟨_, _, _, _, _, rfl⟩ |
    ⟨_, _, _, _, _, rfl⟩ | ⟨_, _, _, rfl⟩
  case inr.inr.inr.inl =>
    obtain ⟨himem, hdmem⟩ := hwf
    exact ⟨himem, dmem_wf_writeData s a _ hdmem (dataIndex_lt _ a ha)⟩
  all_goals exact hwf

/-- Only a taken BEQZ writes the skip counter, with 2 or with a short offset. -/
theorem exec_skip_cases (i : Instr) (s t : State) (h : exec i s = .next t) :
    t.skip = s.skip ∨ (∃ r imm, i = .beqz r imm ∧ readReg s r = 0#8) ∧ -2 ≤ t.skip ∧ t.skip ≤ 2 := by
  rcases exec_cases i s t h with rfl | ⟨_, _, _, rfl⟩ | ⟨_, _, _, _, _, rfl⟩ | ⟨_, _, _, _, _, rfl⟩ |
    ⟨r, imm, hi, hz, _, rfl⟩ | ⟨r, imm, hi, hz, hshort, rfl⟩ | ⟨_, _, _, rfl⟩
  case inr.inr.inr.inr.inl =>
    have hs : (takeLongBranch s imm).skip = 2 := rfl
    exact .inr ⟨⟨r, imm, hi, hz⟩, by omega, by omega⟩
  case inr.inr.inr.inr.inr.inl =>
    have hs : (takeShortBranch s imm).skip = imm.toInt := rfl
    exact .inr ⟨⟨r, imm, hi, hz⟩, by omega, by omega⟩
  all_goals exact .inl rfl

namespace ExecuteStage
variable {s m : State}

theorem keeps_memoriesWf (h : ExecuteStage s m) (hwf : MemoriesWf s) : MemoriesWf m := by
  have hbefore : MemoriesWf (beforeExecute s) := by simpa [MemoriesWf] using hwf
  cases h with
  | elided => exact hbefore
  | executed _ _ hexec => exact exec_keeps_memoriesWf _ _ _ hbefore hexec

theorem keeps_skip_range (h : ExecuteStage s m) (hlo : -2 ≤ s.skip) (hhi : s.skip ≤ 2) : -2 ≤ m.skip ∧ m.skip ≤ 2 := by
  cases h with
  | elided hk => rw [setSkip_skip]; omega
  | executed _ _ hexec =>
    rcases exec_skip_cases _ _ _ hexec with hkeep | ⟨_, hrange⟩
    · rw [hkeep, beforeExecute_skip]; exact ⟨hlo, hhi⟩
    · exact hrange

/-- Whether or not it flushes, the stage leaves the sentinel in IF after a fetch of it. -/
theorem ifBuf_sentinel (h : ExecuteStage s m) (hw : fetchedWord s = 0xFFFF#16) : m.ifBuf = 0xFFFF#16 := by
  rcases h.buffers with ⟨_, hif, _⟩ | ⟨_, _, hif, _⟩
  · exact hif
  · exact hif.trans hw

theorem idBuf_sentinel (h : ExecuteStage s m) (hif : s.ifBuf = 0xFFFF#16) : m.idBuf = 0xFFFF#16 := by
  rcases h.buffers with ⟨_, _, hid⟩ | ⟨_, _, _, hid⟩
  · exact hid
  · exact hid.trans hif

end ExecuteStage

/-! ### The scheduler's shape -/

theorem schedulerShape_running (t : State) (hq : t.sched = .running) (hd : t.drain = 0) : SchedulerShape t :=
  ⟨fun _ => hd, by simp [hq], by simp [hq]⟩

theorem schedulerShape_draining (t : State) (hq : t.sched = .draining) (hd : t.drain = 1) (hif : t.ifBuf = 0xFFFF#16) :
    SchedulerShape t :=
  ⟨by simp [hq], fun _ => ⟨hd, hif⟩, by simp [hq]⟩

theorem schedulerShape_halted (t : State) (hq : t.sched = .halted) (hd : t.drain = 0) (hif : t.ifBuf = 0xFFFF#16)
    (hid : t.idBuf = 0xFFFF#16) (he : fetchEmpty t = true) : SchedulerShape t :=
  ⟨by simp [hq], by simp [hq], fun _ => ⟨hd, hif, hid, he⟩⟩

theorem step_keeps_schedulerShape (s t : State) (hh : s.sched ≠ .halted) (hs : SchedulerShape s) (h : step s = .next t) :
    SchedulerShape t := by
  obtain ⟨m, hm, ht⟩ := step_executeStage s t hh h
  have hif : fetchedWord s = 0xFFFF#16 → t.ifBuf = 0xFFFF#16 := fun hw => by
    rw [ht, countdownPhase_ifBuf, hm.ifBuf_sentinel hw]
  obtain ⟨_, hdraining, _⟩ := hs
  rcases step_sched_cases s t hh h with ⟨_, hq, hd⟩ | ⟨hw, _, hq, hd⟩ | ⟨hw, hdrain, hlast⟩
  · exact schedulerShape_running t hq hd
  · exact schedulerShape_draining t hq hd (hif hw)
  · obtain ⟨hone, hifs⟩ := hdraining hdrain
    obtain ⟨hd, hq⟩ := hlast (le_of_eq hone)
    have hid : t.idBuf = 0xFFFF#16 := by rw [ht, countdownPhase_idBuf, hm.idBuf_sentinel hifs]
    cases he : fetchEmpty t with
    | true => exact schedulerShape_halted t (by simpa [he] using hq) hd (hif hw) hid he
    | false => exact schedulerShape_running t (by simpa [he] using hq) hd

/-- Settles O28: a halted core stays as it is; a cycle keeps each part, the last cycle of a drain with the sentinel moved from IF to
ID. -/
theorem stepKeepsInv : Obligations.StepKeepsInv := by
  intro s t hinv h
  by_cases hh : s.sched = .halted
  · rw [step_halted s hh] at h
    rwa [← next_inj h]
  · obtain ⟨hmem, _, ⟨hlo, hhi⟩, hshape⟩ := hinv
    have hshape' := step_keeps_schedulerShape s t hh hshape h
    obtain ⟨m, hm, rfl⟩ := step_executeStage s t hh h
    obtain ⟨_, hex, _⟩ := hm.keeps_code_ex_sched
    refine ⟨?memories, ⟨s.idBuf, by rw [countdownPhase_ex, hex]⟩, ?skip, hshape'⟩
    case memories => simpa [MemoriesWf] using hm.keeps_memoriesWf hmem
    case skip => simpa using hm.keeps_skip_range hlo hhi

/-! ### Reset and launch (10_state.md section 5, 70_reset_and_hazards.md section 1) -/

/-- The reset state with other memories: all a host can make of it through the load ports. -/
def resetWith (im : Memory 16) (dm : Memory 8) : State := { State.reset with imem := im, dmem := dm }

theorem machineInv_resetWith (im : Memory 16) (dm : Memory 8) (h : MemoriesWf (resetWith im dm)) :
    MachineInv (resetWith im dm) :=
  ⟨h, ⟨0xFFFF#16, rfl⟩, ⟨by simp [resetWith, State.reset], by simp [resetWith, State.reset]⟩, schedulerShape_running _ rfl rfl⟩

/-- Settles O26: the reset state's memories are empty lists. -/
theorem resetSatisfiesInv : Obligations.ResetSatisfiesInv := machineInv_resetWith [] [] ⟨rfl, rfl⟩

theorem loadInstruction_in_range (addr value : Nat) (s : State) (h : addr < 1024) :
    loadInstruction addr value s = (writeInstr s addr (BitVec.ofNat 16 value), none) := if_pos h

theorem loadInstruction_out_of_range (addr value : Nat) (s : State) (h : 1024 ≤ addr) :
    loadInstruction addr value s = (s, some (.addressOutOfRange .loadInstruction addr)) := if_neg (not_lt.mpr h)

theorem loadData_in_range (addr value : Nat) (s : State) (h : addr < 2048) :
    loadData addr value s = (writeData s addr (BitVec.ofNat 8 value), none) := if_pos h

theorem loadData_out_of_range (addr value : Nat) (s : State) (h : 2048 ≤ addr) :
    loadData addr value s = (s, some (.addressOutOfRange .loadData addr)) := if_neg (not_lt.mpr h)

/-- A port call either writes one cell of one memory inside its space or changes nothing. -/
theorem launchState_eq_resetWith (s : State) (h : LaunchState s) : ∃ im dm, s = resetWith im dm ∧ MemoriesWf s := by
  induction h with
  | reset => exact ⟨[], [], rfl, rfl, rfl⟩
  | loadInstruction addr value _ ih =>
    obtain ⟨im, dm, rfl, himem, hdmem⟩ := ih
    by_cases ha : addr < 1024
    · rw [loadInstruction_in_range addr value _ ha]
      exact ⟨_, dm, rfl, imem_wf_writeInstr _ addr _ himem ha, hdmem⟩
    · rw [loadInstruction_out_of_range addr value _ (by omega)]
      exact ⟨im, dm, rfl, himem, hdmem⟩
  | loadData addr value _ ih =>
    obtain ⟨im, dm, rfl, himem, hdmem⟩ := ih
    by_cases ha : addr < 2048
    · rw [loadData_in_range addr value _ ha]
      exact ⟨im, _, rfl, himem, dmem_wf_writeData _ addr _ hdmem ha⟩
    · rw [loadData_out_of_range addr value _ (by omega)]
      exact ⟨im, dm, rfl, himem, hdmem⟩

/-- Settles O27: by induction over the port calls a launch state is a reset state with canonical memories. -/
theorem launchStatesSatisfyInv : Obligations.LaunchStatesSatisfyInv := by
  intro s h
  obtain ⟨im, dm, rfl, hwf⟩ := launchState_eq_resetWith s h
  exact ⟨machineInv_resetWith im dm hwf, im, dm, rfl⟩

end Sys2Proof.Machine

/-! PROOFS. Two fields that runs do not depend on: the flags (10_state.md section 3), and which value of 0 or less the skip counter has
(46_pipeline.md R114). -/

namespace Sys2Proof.Machine

theorem step_executes (s m : State) (hh : s.sched ≠ .halted) (hk : s.skip ≤ 0)
    (hm : exec (decodeInstr s.idBuf) (beforeExecute s) = .next m) : step s = .next (countdownPhase m) := by
  have hinstr : (beforeExecute s).ex.instr = decodeInstr s.idBuf := by rw [beforeExecute_ex, decodeInstr]
  rw [step_running s hh, executePhase_runs _ (by simpa using hk), hinstr, hm, afterNext_next]

theorem longOffset_eq_false_iff (imm : Byte) : longOffset imm = false ↔ ¬ (3 ≤ imm.toInt ∨ imm.toInt ≤ -3) := by
  rw [← longOffset_iff, Bool.not_eq_true]

/-! ### The flags -/

theorem exec_beqz_setFlags (r : RegIdx) (imm : Byte) (s t : State) (f : Flags) (h : exec (.beqz r imm) s = .next t) :
    exec (.beqz r imm) (setFlags s f) = .next (setFlags t f) := by
  rcases beqz_cases r imm s t h with ⟨hz, rfl⟩ | ⟨hz, hl, rfl⟩ | ⟨hz, hl, rfl⟩
  · exact exec_beqz_not_taken r imm _ hz
  · exact exec_beqz_long r imm _ hz ((longOffset_iff imm).mpr hl)
  · exact exec_beqz_short r imm _ hz ((longOffset_eq_false_iff imm).mpr hl)

/-- No instruction reads a flag but to keep it. -/
theorem exec_setFlags (i : Instr) (s t : State) (f : Flags) (h : exec i s = .next t) :
    ∃ f', exec i (setFlags s f) = .next (setFlags t f') := by
  cases i with
  | beqz r imm => exact ⟨f, exec_beqz_setFlags r imm s t f h⟩
  | ldr r imm =>
    rcases ldr_cases r imm s t h with ⟨a, ha, rfl⟩ | ⟨hn, rfl⟩
    · exact ⟨f, exec_ldr_admitted r imm _ a ha⟩
    · exact ⟨f, exec_ldr_dropped r imm _ hn⟩
  | str r imm =>
    rcases str_cases r imm s t h with ⟨a, ha, rfl⟩ | ⟨hn, rfl⟩
    · exact ⟨f, exec_str_admitted r imm _ a ha⟩
    · exact ⟨f, exec_str_dropped r imm _ hn⟩
  | nop | br | unrecognized12 | unrecognized13 | unrecognized14 | unrecognized15 =>
    rw [← next_inj h]
    exact ⟨f, rfl⟩
  | add | sub | mul | movi | andi | eor | sal | sar =>
    rw [← next_inj h]
    exact ⟨_, rfl⟩

theorem step_setFlags (s t : State) (f : Flags) (h : step s = .next t) :
    ∃ f', step (setFlags s f) = .next (setFlags t f') := by
  rcases step_cases s t h with ⟨hh, _, rfl⟩ | ⟨hh, hk, _, rfl⟩ | ⟨hh, hk, _, m, hm, rfl⟩
  · exact ⟨f, step_halted _ hh⟩
  · refine ⟨f, (step_elided (setFlags s f) hh hk).trans ?_⟩
    rw [beforeExecute_setFlags, ← countdownPhase_setFlags]
    rfl
  · obtain ⟨f', hf'⟩ := exec_setFlags _ _ m f hm
    rw [← beforeExecute_setFlags] at hf'
    refine ⟨f', ?_⟩
    rw [← countdownPhase_setFlags]
    exact step_executes (setFlags s f) _ hh hk hf'

/-- Settles O20: by induction on the number of cycles, each of which hides the flags from everything but the flags. -/
theorem flagsNeverInfluenceARun : Obligations.FlagsNeverInfluenceARun := by
  intro n
  induction n with
  | zero =>
    intro s f t h
    rw [← next_inj h]
    exact ⟨f, rfl⟩
  | succ n ih =>
    intro s f t h
    obtain ⟨m, hm, hrun⟩ := runCycles_succ_cases n s t h
    obtain ⟨g, hg⟩ := step_setFlags s m f hm
    obtain ⟨f', hf'⟩ := ih m g t hrun
    exact ⟨f', (runCycles_succ n _ _ hg).trans hf'⟩

/-! ### The skip counter at 0 or less -/

/-- The execute stage assigns the skip counter or leaves it unread. -/
theorem exec_setSkip (i : Instr) (s t : State) (k : Int) (h : exec i s = .next t) :
    exec i (setSkip s k) = .next t ∨ t.skip = s.skip ∧ exec i (setSkip s k) = .next (setSkip t k) := by
  cases i with
  | beqz r imm =>
    rcases beqz_cases r imm s t h with ⟨hz, rfl⟩ | ⟨hz, hl, rfl⟩ | ⟨hz, hl, rfl⟩
    · exact .inr ⟨rfl, exec_beqz_not_taken r imm _ hz⟩
    · exact .inl (exec_beqz_long r imm _ hz ((longOffset_iff imm).mpr hl))
    · exact .inl (exec_beqz_short r imm _ hz ((longOffset_eq_false_iff imm).mpr hl))
  | ldr r imm =>
    rcases ldr_cases r imm s t h with ⟨a, ha, rfl⟩ | ⟨hn, rfl⟩
    · exact .inr ⟨rfl, exec_ldr_admitted r imm _ a ha⟩
    · exact .inr ⟨rfl, exec_ldr_dropped r imm _ hn⟩
  | str r imm =>
    rcases str_cases r imm s t h with ⟨a, ha, rfl⟩ | ⟨hn, rfl⟩
    · exact .inr ⟨rfl, exec_str_admitted r imm _ a ha⟩
    · exact .inr ⟨rfl, exec_str_dropped r imm _ hn⟩
  | nop | br | unrecognized12 | unrecognized13 | unrecognized14 | unrecognized15 | add | sub | mul | movi | andi | eor | sal |
    sar =>
    rw [← next_inj h]
    exact .inr ⟨rfl, rfl⟩

theorem step_setSkip (s t : State) (k : Int) (hs : s.skip ≤ 0) (hk : k ≤ 0) (h : step s = .next t) :
    step (setSkip s k) = .next t ∨ t.skip = s.skip ∧ step (setSkip s k) = .next (setSkip t k) := by
  rcases step_cases s t h with ⟨hh, _, rfl⟩ | ⟨_, hpos, _⟩ | ⟨hh, _, _, m, hm, rfl⟩
  · exact .inr ⟨rfl, step_halted _ hh⟩
  · omega
  · have hexec := exec_setSkip _ _ m k hm
    rw [← beforeExecute_setSkip, beforeExecute_skip] at hexec
    rcases hexec with hsame | ⟨hkept, hset⟩
    · exact .inl (step_executes (setSkip s k) m hh hk hsame)
    · rw [countdownPhase_skip, ← countdownPhase_setSkip]
      exact .inr ⟨hkept, step_executes (setSkip s k) _ hh hk hset⟩

end Sys2Proof.Machine

/-! PROOFS. The three realisations of a flush (46_pipeline.md section 3) as a simulation: what relates two runs is how many cycles both
still stall for, whether by the skip counter or by the sentinels in their buffers. -/

namespace Sys2Proof.Machine

/-! ### The agreement of observable state under the phases -/

theorem SameArch.refl (s : State) : SameArch s s := ⟨rfl, rfl, rfl, rfl, rfl, rfl, rfl⟩

theorem sameArch_setSkip (s : State) (k : Int) : SameArch s (setSkip s k) := SameArch.refl s

theorem sameArch_setSched {a b : State} (h : SameArch a b) (q : Sched) (d : Nat) :
    SameArch (setSched a q d) (setSched b q d) := by
  obtain ⟨hregs, hflags, hpc, himem, hdmem, _, _⟩ := h
  exact ⟨hregs, hflags, hpc, himem, hdmem, rfl, rfl⟩

theorem sameArch_drainPhase {a b : State} (h : SameArch a b) (w : Word) : SameArch (drainPhase w a) (drainPhase w b) := by
  obtain ⟨_, _, _, _, _, hsched, _⟩ := id h
  by_cases hw : w = 0xFFFF#16
  · subst hw
    by_cases hr : a.sched = .running
    · rw [drainPhase_start a hr, drainPhase_start b (hsched ▸ hr)]
      exact sameArch_setSched h _ _
    · rwa [drainPhase_keep a hr, drainPhase_keep b (hsched ▸ hr)]
  · rw [drainPhase_real w a hw, drainPhase_real w b hw]
    exact sameArch_setSched h _ _

theorem sameArch_countdownPhase {a b : State} (h : SameArch a b) : SameArch (countdownPhase a) (countdownPhase b) := by
  have hset := @sameArch_setSched a b h
  obtain ⟨_, _, hpc, himem, _, hsched, hdrain⟩ := id h
  by_cases hr : a.sched = .draining
  · by_cases hd : a.drain ≤ 1
    · rw [countdownPhase_last a hr hd, countdownPhase_last b (hsched ▸ hr) (hdrain ▸ hd), fetchEmpty_congr a b hpc himem]
      exact hset _ _
    · rw [countdownPhase_more a hr (by omega), countdownPhase_more b (hsched ▸ hr) (by omega), hdrain]
      exact hset _ _
  · rwa [countdownPhase_idle a hr, countdownPhase_idle b (hsched ▸ hr)]

theorem sameArch_beforeExecute {a b : State} (h : SameArch a b) : SameArch (beforeExecute a) (beforeExecute b) := by
  obtain ⟨hregs, hflags, hpc, himem, hdmem, hsched, hdrain⟩ := h
  have hshift : SameArch (shiftPhase a) (shiftPhase b) :=
    ⟨hregs, hflags, fetchedPc_congr a b hpc himem, himem, hdmem, hsched, hdrain⟩
  rw [beforeExecute, beforeExecute, fetchedWord_congr a b hpc himem]
  exact sameArch_drainPhase hshift _

theorem sameArch_idleCycle {a b : State} (h : SameArch a b) : SameArch (idleCycle a) (idleCycle b) :=
  sameArch_countdownPhase (sameArch_beforeExecute h)

/-- The whole state after phases 1 and 2 follows from the observable state, the raw buffers and the skip counter: EX is
overwritten. -/
theorem beforeExecute_eq_of_sameArch (a b : State) (h : SameArch a b) (hif : a.ifBuf = b.ifBuf) (hid : a.idBuf = b.idBuf) :
    beforeExecute b = beforeExecute (setSkip a b.skip) := by
  obtain ⟨hregs, hflags, hpc, himem, hdmem, hsched, hdrain⟩ := h
  cases a
  cases b
  cases hregs; cases hflags; cases hpc; cases himem; cases hdmem; cases hsched; cases hdrain; cases hif; cases hid
  rfl

/-! ### Stalled cores -/

/-- For `n` cycles no instruction acts: the skip counter elides them, or it is idle and the sentinels in ID and IF fill them. -/
def Stalled (n : Nat) (s : State) : Prop :=
  s.skip = n ∨ s.skip ≤ 0 ∧ n ≤ 2 ∧ (1 ≤ n → s.idBuf = 0xFFFF#16) ∧ (2 ≤ n → s.ifBuf = 0xFFFF#16)

theorem stalled_zero_iff (s : State) : Stalled 0 s ↔ s.skip ≤ 0 := by
  simp only [Stalled]; omega

/-- However a core comes to stall, some count describes it. -/
theorem exists_stalled (s : State) : ∃ n, Stalled n s := by
  by_cases hk : s.skip ≤ 0
  · exact ⟨0, (stalled_zero_iff s).mpr hk⟩
  · exact ⟨s.skip.toNat, .inl (by omega)⟩

theorem Stalled.idle {n : Nat} {s : State} (h : Stalled (n + 1) s) : 0 < s.skip ∨ s.idBuf = 0xFFFF#16 := by
  rcases h with hk | ⟨_, _, hid, _⟩
  · exact .inl (by omega)
  · exact .inr (hid (by omega))

theorem Stalled.idleCycle {n : Nat} {s : State} (h : Stalled (n + 1) s) : Stalled n (idleCycle s) := by
  rcases h with hk | ⟨hk, hn, _, hif⟩
  · left
    rw [idleCycle_skip, idleSkip_of_pos (by omega)]
    omega
  · refine .inr ⟨?_, by omega, fun hone => ?_, fun htwo => by omega⟩
    · rwa [idleCycle_skip, idleSkip_of_nonpos hk]
    · rw [idleCycle_idBuf]; exact hif (by omega)

/-! ### The simulation -/

/-- Two cores that look alike, stall for the same `n` cycles, and hold the same words wherever these outlast the stall. -/
structure AgreeAfter (n : Nat) (a b : State) : Prop where
  arch : SameArch a b
  left : Stalled n a
  right : Stalled n b
  ifBuf : n ≤ 1 → a.ifBuf = b.ifBuf
  idBuf : n = 0 → a.idBuf = b.idBuf

theorem AgreeAfter.sched_eq {n : Nat} {a b : State} (h : AgreeAfter n a b) : a.sched = b.sched := by
  obtain ⟨_, _, _, _, _, hsched, _⟩ := h.arch
  exact hsched

theorem AgreeAfter.idleCycle {n : Nat} {a b : State} (h : AgreeAfter (n + 1) a b) :
    AgreeAfter n (idleCycle a) (idleCycle b) where
  arch := sameArch_idleCycle h.arch
  left := h.left.idleCycle
  right := h.right.idleCycle
  ifBuf _ := by
    obtain ⟨_, _, hpc, himem, _⟩ := h.arch
    rw [idleCycle_ifBuf, idleCycle_ifBuf, fetchedWord_congr a b hpc himem]
  idBuf hn := by rw [idleCycle_idBuf, idleCycle_idBuf]; exact h.ifBuf (by omega)

/-- Where neither core stalls they differ in EX and in an unread skip counter, so one instruction acts alike on both. -/
theorem AgreeAfter.step_unstalled {a b a' : State} (h : AgreeAfter 0 a b) (hh : a.sched ≠ .halted) (hstep : step a = .next a') :
    ∃ b', step b = .next b' ∧ ∃ n, AgreeAfter n a' b' := by
  have ha := (stalled_zero_iff a).mp h.left
  have hb := (stalled_zero_iff b).mp h.right
  have hbefore := beforeExecute_eq_of_sameArch a b h.arch (h.ifBuf (by omega)) (h.idBuf rfl)
  have hstepb : step b = step (setSkip a b.skip) := by
    rw [step_running b (h.sched_eq ▸ hh), step_running (setSkip a b.skip) hh, hbefore]
  rw [hstepb]
  rcases step_setSkip a a' b.skip ha hb hstep with hsame | ⟨hkept, hset⟩
  · obtain ⟨n, hn⟩ := exists_stalled a'
    exact ⟨a', hsame, n, SameArch.refl a', hn, hn, fun _ => rfl, fun _ => rfl⟩
  · exact ⟨_, hset, 0, sameArch_setSkip a' b.skip, (stalled_zero_iff _).mpr (hkept ▸ ha), (stalled_zero_iff _).mpr hb,
      fun _ => rfl, fun _ => rfl⟩

theorem AgreeAfter.step {n : Nat} {a b a' : State} (h : AgreeAfter n a b) (hstep : step a = .next a') :
    ∃ b', step b = .next b' ∧ ∃ n', AgreeAfter n' a' b' := by
  by_cases hh : a.sched = .halted
  · rw [step_halted a hh] at hstep
    exact ⟨b, step_halted b (h.sched_eq ▸ hh), n, next_inj hstep ▸ h⟩
  · cases n with
    | zero => exact h.step_unstalled hh hstep
    | succ n =>
      rw [step_idle a hh h.left.idle] at hstep
      exact ⟨_, step_idle b (h.sched_eq ▸ hh) h.right.idle, n, next_inj hstep ▸ h.idleCycle⟩

theorem AgreeAfter.run (k : Nat) {n : Nat} {a b a' : State} (h : AgreeAfter n a b) (hrun : runCycles k a = .next a') :
    ∃ b', runCycles k b = .next b' ∧ SameArch a' b' := by
  induction k generalizing n a b with
  | zero => exact ⟨b, rfl, next_inj hrun ▸ h.arch⟩
  | succ k ih =>
    obtain ⟨m, hm, hrest⟩ := runCycles_succ_cases k a a' hrun
    obtain ⟨m', hm', n', hagree⟩ := h.step hm
    obtain ⟨b', hb', harch⟩ := ih hagree hrest
    exact ⟨b', (runCycles_succ k b m' hm').trans hb', harch⟩

/-- Settles O45: each realisation stalls for two cycles, after which both buffers hold words fetched since. -/
theorem threeFlushRealisationsAgree : Obligations.ThreeFlushRealisationsAgree := by
  intro n s both hskip hrun
  have hboth : Stalled 2 (setSkip (flush s) 2) := .inl rfl
  have hbuffers : Stalled 2 (flush s) := .inr ⟨hskip, le_refl 2, fun _ => rfl, fun _ => rfl⟩
  have hcounter : Stalled 2 (setSkip s 2) := .inl rfl
  have harch (t : State) (ht : SameArch (setSkip (flush s) 2) t) (hstall : Stalled 2 t) :
      AgreeAfter 2 (setSkip (flush s) 2) t :=
    ⟨ht, hboth, hstall, by omega, by omega⟩
  exact ⟨(harch (flush s) (SameArch.refl s) hbuffers).run n hrun, (harch (setSkip s 2) (SameArch.refl s) hcounter).run n hrun⟩

end Sys2Proof.Machine

/-! PROOFS. ADD, SUB, MUL and the shifts (40_arithmetic.md, 42_shift.md): the result latched, and the flags taken from it. -/

namespace Sys2Proof.Machine

/-! ### ADD, SUB and MUL (40_arithmetic.md R75 to R77) -/

/-- Settles O1: `aluAdd` computes the sum and all five flags from the operands as read before the latch. -/
theorem addWritesSumAndAllFlags : Obligations.AddWritesSumAndAllFlags := by
  intro r1 r2 s
  have hread : readReg (latchAlu s r1 (aluAdd (readReg s r1) (readReg s r2))) r1 = readReg s r1 + readReg s r2 :=
    (readReg_latchAlu_self s r1 _).trans (aluAdd_result _ _)
  refine ⟨_, exec_add r1 r2 s, rfl, hread, regsKeptBut_latchAlu s r1 _, ?carry, ?overflow, ?negative, ?zero,
    signRelation_flagsCVNSZ _ _ _, latchAlu_frame s r1 _⟩
  case carry => exact Bool.eq_iff_iff.mpr ((carryFlag_iff _ _).trans decide_eq_true_iff.symm)
  case overflow => rw [readReg_latchAlu_self]; exact overflowFlag_iff _ _ _
  case negative => rw [readReg_latchAlu_self]; exact signBit_eq_msb _
  case zero => rw [readReg_latchAlu_self]; rfl

/-- Settles O2: `aluSub` computes the difference and four flags, and passes C through. -/
theorem subWritesDifferenceAndKeepsCarry : Obligations.SubWritesDifferenceAndKeepsCarry := by
  intro r1 r2 s
  have hread : readReg (latchAlu s r1 (aluSub s.flags (readReg s r1) (readReg s r2))) r1 = readReg s r1 - readReg s r2 :=
    (readReg_latchAlu_self s r1 _).trans (aluSub_result _ _ _)
  refine ⟨_, exec_sub r1 r2 s, rfl, hread, regsKeptBut_latchAlu s r1 _, rfl, ?overflow, ?negative, ?zero,
    signRelation_flagsVNSZ _ _ _ _, latchAlu_frame s r1 _⟩
  case overflow => rw [readReg_latchAlu_self]; exact overflowFlag_iff _ _ _
  case negative => rw [readReg_latchAlu_self]; exact signBit_eq_msb _
  case zero => rw [readReg_latchAlu_self]; rfl

/-- The low byte of the unsigned product is that of the signed one (40_arithmetic.md R79). -/
theorem mul_eq_ofNat_toNat_mul (a b : Byte) : a * b = BitVec.ofNat 8 (a.toNat * b.toNat) := by
  apply BitVec.eq_of_toNat_eq
  rw [BitVec.toNat_mul, BitVec.toNat_ofNat]

/-- Settles O3: the byte latched is the product modulo 256, in either reading of the operands. -/
theorem mulWritesLowByteOfEitherProduct : Obligations.MulWritesLowByteOfEitherProduct := by
  intro r1 r2 s
  have hread : readReg (latchAlu s r1 (aluMul s.flags (readReg s r1) (readReg s r2))) r1 = readReg s r1 * readReg s r2 :=
    (readReg_latchAlu_self s r1 _).trans (aluMul_result _ _ _)
  obtain ⟨hc, hv, hs, hn, hz⟩ := latchAlu_flags_of_flagsNZ s r1 (aluMul s.flags (readReg s r1) (readReg s r2)) rfl
  refine ⟨_, exec_mul r1 r2 s, rfl, ?signed, ?unsigned, regsKeptBut_latchAlu s r1 _, hc, hv, hs, hn, hz,
    latchAlu_frame s r1 _⟩
  case signed => exact hread.trans (trunc8_mul _ _).symm
  case unsigned => exact hread.trans (mul_eq_ofNat_toNat_mul _ _)

/-! ### The words of instructions with an immediate (30_encoding.md R51 to R54, R64) -/

theorem packFields_lowOfImm_signedImm (op : Opcode) (r1 low : RegIdx) :
    packFields op r1 (lowOfImm (signedImm low)) = op ++ r1 ++ low := by
  rw [lowOfImm_signedImm, packFields]

theorem packFields_lowOfImm_shiftImm (op : Opcode) (r1 low : RegIdx) :
    packFields op r1 (lowOfImm (shiftImm low)) = op ++ r1 ++ low := by
  rw [lowOfImm_shiftImm, packFields]

/-! ### SAL and SAR (42_shift.md R85, R86) -/

theorem aluSal_shiftImm_result (f : Flags) (a : Byte) (low : RegIdx) :
    (aluSal f a (shiftImm low)).result = a <<< low.toNat := by
  rw [aluSal_result, shiftImm_toNat]

theorem aluSar_shiftImm_result (f : Flags) (a : Byte) (low : RegIdx) :
    (aluSar f a (shiftImm low)).result = a.sshiftRight low.toNat := by
  rw [aluSar_result, shiftImm_toNat]

/-- Settles O7: the byte latched is the left shift by the field, which from 8 on pushes every bit out. -/
theorem salShiftsLeftWithZeros : Obligations.SalShiftsLeftWithZeros := by
  intro r1 low s
  have hread : readReg (latchAlu s r1 (aluSal s.flags (readReg s r1) (shiftImm low))) r1 = readReg s r1 <<< low.toNat :=
    (readReg_latchAlu_self s r1 _).trans (aluSal_shiftImm_result _ _ _)
  obtain ⟨hc, hv, hs, hn, hz⟩ := latchAlu_flags_of_flagsNZ s r1 (aluSal s.flags (readReg s r1) (shiftImm low)) rfl
  refine ⟨_, exec_sal r1 _ s, packFields_lowOfImm_shiftImm 8#4 r1 low, hread, fun hcount => ?zeros,
    regsKeptBut_latchAlu s r1 _, hc, hv, hs, hn, hz, latchAlu_frame s r1 _⟩
  exact hread.trans (BitVec.shiftLeft_eq_zero hcount)

/-- Settles O8: the byte latched is the arithmetic right shift by the field, which keeps the sign bit, so N is the old sign. -/
theorem sarShiftsRightWithSignFill : Obligations.SarShiftsRightWithSignFill := by
  intro r1 low s
  have hread : readReg (latchAlu s r1 (aluSar s.flags (readReg s r1) (shiftImm low))) r1 =
      (readReg s r1).sshiftRight low.toNat :=
    (readReg_latchAlu_self s r1 _).trans (aluSar_shiftImm_result _ _ _)
  obtain ⟨hc, hv, hs, hn, hz⟩ := latchAlu_flags_of_flagsNZ s r1 (aluSar s.flags (readReg s r1) (shiftImm low)) rfl
  refine ⟨_, exec_sar r1 _ s, packFields_lowOfImm_shiftImm 9#4 r1 low, hread, fun hcount => ?signs,
    regsKeptBut_latchAlu s r1 _, hc, hv, hs, ?negative, hz, latchAlu_frame s r1 _⟩
  case signs => exact hread.trans (sshiftRight_of_le _ _ hcount)
  case negative => rw [hn, hread, BitVec.msb_sshiftRight]

/-- Shifting left and back loses nothing exactly when the value fits in the `8 - k` bits that stay. -/
theorem sshiftRight_shiftLeft_eq_iff (v : Byte) (k : Nat) (hk : k ≤ 7) :
    (v <<< k).sshiftRight k = v ↔ -(2 ^ (7 - k) : Int) ≤ v.toInt ∧ v.toInt ≤ 2 ^ (7 - k) - 1 := by
  have hshift : (v <<< k).toNat = v.toNat * 2 ^ k % 256 := by rw [BitVec.toNat_shiftLeft, Nat.shiftLeft_eq]
  have hv := msb_toInt_cases v
  have hs := msb_toInt_cases (v <<< k)
  rw [← BitVec.toInt_inj, BitVec.toInt_sshiftRight, Int.shiftRight_eq_div_pow]
  generalize v <<< k = w at hshift hs ⊢
  interval_cases k <;> norm_num at hshift ⊢ <;> omega

/-- Settles O52: the two shifts are `sshiftRight_shiftLeft_eq_iff` on the register's byte. -/
theorem salThenSarReturnsRepresentableValues : Obligations.SalThenSarReturnsRepresentableValues := by
  intro r k s t u hk hsal hsar
  rw [exec_sal] at hsal
  rw [exec_sar] at hsar
  have ht : readReg t r = readReg s r <<< k.toNat := by
    rw [← next_inj hsal, readReg_latchAlu_self, aluSal_shiftImm_result]
  have hu : readReg u r = (readReg t r).sshiftRight k.toNat := by
    rw [← next_inj hsar, readReg_latchAlu_self, aluSar_shiftImm_result]
  rw [hu, ht]
  exact sshiftRight_shiftLeft_eq_iff (readReg s r) k.toNat hk

end Sys2Proof.Machine

/-! PROOFS. What V and S say about the operands as signed numbers (40_arithmetic.md R72, R74), and the flags each opcode keeps
(10_state.md R18). -/

namespace Sys2Proof.Machine

/-! ### V and S of a sum and of a difference -/

/-- The bounds of a byte read as a signed number (10_state.md R11). -/
theorem toInt_bounds (a : Byte) : -128 ≤ a.toInt ∧ a.toInt ≤ 127 := by
  have hlo := BitVec.le_toInt (x := a)
  have hhi := BitVec.toInt_lt (x := a)
  norm_num at hlo hhi
  omega

theorem msb_eq_true_iff (a : Byte) : a.msb = true ↔ a.toInt < 0 := by
  rw [BitVec.msb_eq_toInt, decide_eq_true_iff]

/-- The formula of V as a condition on the three signs. -/
theorem overflowFlag_iff_signs (a b r : Byte) :
    overflowFlag a b r = true ↔ (a.toInt < 0 ↔ b.toInt < 0) ∧ ¬ (r.toInt < 0 ↔ a.toInt < 0) := by
  rw [overflowFlag_iff, ne_eq, Bool.eq_iff_iff (a := a.msb), Bool.eq_iff_iff (a := r.msb)]
  simp only [msb_eq_true_iff]

/-- The byte of a sum is off the true sum by a multiple of 256. -/
theorem toInt_add_wraps (a b : Byte) : ∃ k, (a + b).toInt = a.toInt + b.toInt - 256 * k :=
  ⟨_, (BitVec.toInt_add a b).trans (Int.bmod_eq_self_sub_mul_bdiv _ 256)⟩

theorem toInt_sub_wraps (a b : Byte) : ∃ k, (a - b).toInt = a.toInt - b.toInt - 256 * k :=
  ⟨_, BitVec.toInt_sub.trans (Int.bmod_eq_self_sub_mul_bdiv _ 256)⟩

theorem overflowFlag_add_iff (a b : Byte) :
    overflowFlag a b (a + b) = true ↔ a.toInt + b.toInt < -128 ∨ 127 < a.toInt + b.toInt := by
  obtain ⟨k, hk⟩ := toInt_add_wraps a b
  have ha := toInt_bounds a
  have hb := toInt_bounds b
  have hr := toInt_bounds (a + b)
  rw [overflowFlag_iff_signs]
  omega

/-- The formula read literally on a difference (decision D23): it can only be set for operands of one sign. -/
theorem overflowFlag_sub_iff (a b : Byte) :
    overflowFlag a b (a - b) = true ↔
      (0 ≤ a.toInt ∧ 0 ≤ b.toInt ∧ a.toInt < b.toInt) ∨ (a.toInt < 0 ∧ b.toInt < 0 ∧ b.toInt ≤ a.toInt) := by
  obtain ⟨k, hk⟩ := toInt_sub_wraps a b
  have ha := toInt_bounds a
  have hb := toInt_bounds b
  have hr := toInt_bounds (a - b)
  rw [overflowFlag_iff_signs]
  omega

theorem signFlag_iff (n v : Bool) : signFlag n v = true ↔ ¬ (n = true ↔ v = true) := by
  cases n <;> cases v <;> decide

/-- After ADD the S flag is the sign of the true sum: N, corrected where V says that the byte's sign is wrong. -/
theorem signFlag_add_iff (a b : Byte) :
    signFlag (negativeFlag (a + b)) (overflowFlag a b (a + b)) = true ↔ a.toInt + b.toInt < 0 := by
  obtain ⟨k, hk⟩ := toInt_add_wraps a b
  have ha := toInt_bounds a
  have hb := toInt_bounds b
  have hr := toInt_bounds (a + b)
  rw [signFlag_iff, overflowFlag_add_iff, negativeFlag, signBit_eq_msb, msb_eq_true_iff]
  omega

theorem overflow_of_exec_add (r1 r2 : RegIdx) (s t : State) (h : exec (.add r1 r2) s = .next t) :
    t.flags.v = overflowFlag (readReg s r1) (readReg s r2) (readReg s r1 + readReg s r2) := by
  rw [exec_add] at h
  rw [← next_inj h, latchAlu_flags, ← trunc8_add]
  rfl

theorem sign_of_exec_add (r1 r2 : RegIdx) (s t : State) (h : exec (.add r1 r2) s = .next t) :
    t.flags.s = signFlag (negativeFlag (readReg s r1 + readReg s r2))
      (overflowFlag (readReg s r1) (readReg s r2) (readReg s r1 + readReg s r2)) := by
  rw [exec_add] at h
  rw [← next_inj h, latchAlu_flags, ← trunc8_add]
  rfl

theorem overflow_of_exec_sub (r1 r2 : RegIdx) (s t : State) (h : exec (.sub r1 r2) s = .next t) :
    t.flags.v = overflowFlag (readReg s r1) (readReg s r2) (readReg s r1 - readReg s r2) := by
  rw [exec_sub] at h
  rw [← next_inj h, latchAlu_flags, ← trunc8_sub]
  rfl

/-- Settles O17: V is `overflowFlag` of the operands and the byte latched, read as a fact about signed numbers. -/
theorem overflowIsSignedOverflowForAddOnly : Obligations.OverflowIsSignedOverflowForAddOnly := by
  intro r1 r2 s
  refine ⟨fun t h => ?_, fun t h => ?_⟩
  · rw [overflow_of_exec_add r1 r2 s t h]
    exact overflowFlag_add_iff _ _
  · rw [overflow_of_exec_sub r1 r2 s t h]
    exact overflowFlag_sub_iff _ _

/-! ### The flags an opcode keeps -/

theorem WritesNZOnly.keeps_c_v_s {i : Instr} (hi : WritesNZOnly i) (s t : State) (h : exec i s = .next t) :
    t.flags.c = s.flags.c ∧ t.flags.v = s.flags.v ∧ t.flags.s = s.flags.s := by
  obtain ⟨hs, hv⟩ := hi.keeps_s_v s t h
  exact ⟨hi.keeps_carry s t h, hv, hs⟩

/-- Settles O19: each row of the flag table is the lemma about its write pattern. -/
theorem flagsOutsideAnOpcodesRowAreKept : Obligations.FlagsOutsideAnOpcodesRowAreKept := by
  intro i s t h
  cases i with
  | add r1 r2 => trivial
  | sub r1 r2 => exact exec_sub_keeps_carry r1 r2 s t h
  | mul r1 r2 => exact (WritesNZOnly.mul r1 r2).keeps_c_v_s s t h
  | andi r1 imm => exact (WritesNZOnly.andi r1 imm).keeps_c_v_s s t h
  | eor r1 r2 => exact (WritesNZOnly.eor r1 r2).keeps_c_v_s s t h
  | sal r1 shamt => exact (WritesNZOnly.sal r1 shamt).keeps_c_v_s s t h
  | sar r1 shamt => exact (WritesNZOnly.sar r1 shamt).keeps_c_v_s s t h
  | movi r1 imm => exact exec_movi_keeps_flags r1 imm s t h
  | ldr r1 imm => exact exec_ldr_keeps_flags r1 imm s t h
  | nop | beqz | br | str | unrecognized12 | unrecognized13 | unrecognized14 | unrecognized15 =>
    exact exec_keeps_flags_of_no_destination rfl s t h

/-- S is written only by ADD and SUB. -/
theorem exec_keeps_sign (i : Instr) (hadd : ∀ r1 r2, i ≠ .add r1 r2) (hsub : ∀ r1 r2, i ≠ .sub r1 r2) (s t : State)
    (h : exec i s = .next t) : t.flags.s = s.flags.s := by
  have hrow := flagsOutsideAnOpcodesRowAreKept i s t h
  cases i with
  | add r1 r2 => exact absurd rfl (hadd r1 r2)
  | sub r1 r2 => exact absurd rfl (hsub r1 r2)
  | mul | andi | eor | sal | sar =>
    obtain ⟨_, _, hs⟩ := hrow
    exact hs
  | nop | movi | beqz | br | ldr | str | unrecognized12 | unrecognized13 | unrecognized14 | unrecognized15 =>
    exact congrArg Flags.s hrow

/-- The reset state with -128 in x[0] and 1 in x[1]: their difference is -129, and the byte 0x7F has neither N nor the literal V. -/
def minusOneTwentyNine : State := writeReg (writeReg State.reset 0#6 0x80#8) 1#6 0x01#8

theorem exec_sub_minusOneTwentyNine :
    ∃ t, exec (.sub 0#6 1#6) minusOneTwentyNine = .next t ∧ t.flags.s = false ∧
      (readReg minusOneTwentyNine 0#6).toInt - (readReg minusOneTwentyNine 1#6).toInt < 0 :=
  ⟨_, exec_sub 0#6 1#6 minusOneTwentyNine, by decide, by decide⟩

/-- Settles O16: ADD and SUB write S from N and V, every other instruction keeps it, and the last clause is the state
`minusOneTwentyNine`. -/
theorem signIsNegativeXorOverflowAfterAddAndSub : Obligations.SignIsNegativeXorOverflowAfterAddAndSub := by
  refine ⟨fun i s t h => ⟨?add, ?sub, fun hi => ?others⟩, 0#6, 1#6, minusOneTwentyNine, exec_sub_minusOneTwentyNine⟩
  case add =>
    rintro r1 r2 rfl
    refine ⟨signRelation_of_exec_add r1 r2 s t h, ?_⟩
    rw [sign_of_exec_add r1 r2 s t h]
    exact signFlag_add_iff _ _
  case sub =>
    rintro r1 r2 rfl
    exact signRelation_of_exec_sub r1 r2 s t h
  case others => exact exec_keeps_sign i (fun r1 r2 => (hi r1 r2).1) (fun r1 r2 => (hi r1 r2).2) s t h

end Sys2Proof.Machine

/-! PROOFS. LDR and STR (44_load_store.md), BEQZ and BR (43_control.md). -/

namespace Sys2Proof.Machine

/-! ### LDR and STR -/

theorem indexDiagnostic_admitted (source : AccessSource) (imm : Byte) (a : Nat) (h : dataIndex imm = some a) :
    indexDiagnostic source imm = none := by
  simp only [indexDiagnostic, h]

theorem indexDiagnostic_dropped (source : AccessSource) (imm : Byte) (h : dataIndex imm = none) :
    indexDiagnostic source imm = some (.addressOutOfRange source imm.toInt) := by
  simp only [indexDiagnostic, h, sval]

/-- The frame of an instruction that changes none of this. -/
theorem frame_refl (s : State) : ControlKept s s ∧ SchedulerKept s s ∧ DataKept s s ∧ CodeKept s s :=
  ⟨⟨rfl, rfl, rfl, rfl⟩, ⟨rfl, rfl, rfl⟩, fun _ => rfl, fun _ => rfl⟩

theorem frame_writeReg (s : State) (r : RegIdx) (v : Byte) :
    ControlKept s (writeReg s r v) ∧ SchedulerKept s (writeReg s r v) ∧ DataKept s (writeReg s r v) ∧
      CodeKept s (writeReg s r v) := frame_refl s

/-- Settles O9: a field of 0 to 31 is its own cell's address; any other is no address, and LDR is the identity with a report. -/
theorem ldrLoadsCellOrDropsAndReports : Obligations.LdrLoadsCellOrDropsAndReports := by
  intro r1 low s
  have hencode := packFields_lowOfImm_signedImm 10#4 r1 low
  have hindex := dataIndex_signedImm low
  by_cases hlow : 0 ≤ low.toInt
  · rw [if_pos hlow] at hindex
    refine ⟨_, exec_ldr_admitted r1 _ s _ hindex, hencode, ?_, writeReg_flags s r1 _, frame_writeReg s r1 _⟩
    rw [if_pos hlow]
    exact ⟨readReg_writeReg_self s r1 _, fun r hr => readReg_writeReg_other s r1 r _ hr,
      indexDiagnostic_admitted _ _ _ hindex⟩
  · rw [if_neg hlow] at hindex
    refine ⟨s, exec_ldr_dropped r1 _ s hindex, hencode, ?_, rfl, frame_refl s⟩
    rw [if_neg hlow, ← signedImm_toInt]
    exact ⟨fun _ => rfl, indexDiagnostic_dropped _ _ hindex⟩

/-- Settles O10: STR is a write to the cell the index names, in a canonical memory, or the identity with a report. -/
theorem strStoresCellOrDropsAndReports : Obligations.StrStoresCellOrDropsAndReports := by
  intro r1 low s hwf
  have hencode := packFields_lowOfImm_signedImm 11#4 r1 low
  obtain ⟨hcontrol, hsched, _, hcode⟩ := frame_refl s
  cases hindex : dataIndex (signedImm low) with
  | some a =>
    have hexec := exec_str_admitted r1 _ s a hindex
    obtain ⟨_, hdmem⟩ := id hwf
    refine ⟨_, hexec, hencode, hindex ▸ dataIndex_signedImm low, ?stored, nofun, fun _ => rfl, rfl, hcontrol, hsched, hcode,
      exec_keeps_memoriesWf _ _ _ hwf hexec⟩
    rintro _ ⟨⟩
    exact ⟨readData_writeData_self s _ a _ hdmem, fun b hb => readData_writeData_other s a b _ hb,
      indexDiagnostic_admitted _ _ a hindex⟩
  | none =>
    refine ⟨s, exec_str_dropped r1 _ s hindex, hencode, hindex ▸ dataIndex_signedImm low, nofun, fun _ => ⟨fun _ => rfl, ?report⟩,
      fun _ => rfl, rfl, hcontrol, hsched, hcode, hwf⟩
    rw [← signedImm_toInt]
    exact indexDiagnostic_dropped _ _ hindex

/-- Settles O37: both instructions compute the same address from the field, which is one when the field is not negative. -/
theorem loadAfterStoreReturnsStoredValue : Obligations.LoadAfterStoreReturnsStoredValue := by
  intro r1 r2 low s t u hwf hlow hstr hldr
  have hindex : dataIndex (signedImm low) = some low.toNat := (dataIndex_signedImm low).trans (if_pos hlow)
  rw [exec_str_admitted r1 _ s _ hindex] at hstr
  rw [exec_ldr_admitted r2 _ t _ hindex] at hldr
  obtain ⟨_, hdmem⟩ := hwf
  rw [← next_inj hldr, readReg_writeReg_self, ← next_inj hstr, readData_writeData_self s _ _ _ hdmem]

/-! ### BEQZ and BR -/

/-- Settles O11: the three clauses are the three arms of `execBeqz`, each an update of control fields alone. -/
theorem beqzBranchesLongShortOrNot : Obligations.BeqzBranchesLongShortOrNot := by
  intro r1 low s
  have hencode := packFields_lowOfImm_signedImm 4#4 r1 low
  have hlong := longOffset_iff (signedImm low)
  have hsval : sval (signedImm low) = low.toInt := signedImm_toInt low
  obtain ⟨hcontrol, hsched, hdata, hcode⟩ := frame_refl s
  rw [signedImm_toInt] at hlong
  by_cases hz : readReg s r1 = 0#8
  · by_cases hl : 3 ≤ low.toInt ∨ low.toInt ≤ -3
    · refine ⟨_, exec_beqz_long r1 _ s hz (hlong.mpr hl), hencode, ?_, fun _ => rfl, rfl, hsched, hdata, hcode⟩
      rw [if_pos hz, if_pos hl, ← hsval]
      exact ⟨rfl, rfl, rfl, rfl⟩
    · have hshort : longOffset (signedImm low) = false := (longOffset_eq_false_iff _).mpr (by rwa [signedImm_toInt])
      refine ⟨_, exec_beqz_short r1 _ s hz hshort, hencode, ?_, fun _ => rfl, rfl, hsched, hdata, hcode⟩
      rw [if_pos hz, if_neg hl, ← hsval]
      exact ⟨rfl, rfl, rfl, rfl⟩
  · refine ⟨s, exec_beqz_not_taken r1 _ s hz, hencode, ?_, fun _ => rfl, rfl, hsched, hdata, hcode⟩
    rwa [if_neg hz]

/-- Settles O12: BR is a jump to the two bytes read unsigned, and a flush. -/
theorem brJumpsToRegisterPairAndFlushes : Obligations.BrJumpsToRegisterPairAndFlushes := by
  intro r1 r2 s
  obtain ⟨_, hsched, hdata, hcode⟩ := frame_refl s
  exact ⟨_, exec_br r1 r2 s, rfl, jumpTarget_toNat _ _, rfl, rfl, rfl, fun _ => rfl, rfl, hsched, hdata, hcode⟩

/-- With `pc` three past the instruction, the offset taken from `pc` less 2 counts from the word after it, whatever the wrap. -/
theorem branchTarget_ofNat_add_three (a : Nat) (imm : Byte) :
    branchTarget (BitVec.ofNat 16 (a + 3)) imm = BitVec.ofInt 16 (a + 1 + imm.toInt) := by
  apply BitVec.eq_of_toNat_eq
  simp only [branchTarget, trunc16, sval, BitVec.toNat_ofInt, BitVec.toNat_ofNat]
  omega

/-- Settles O48: the long form writes `branchTarget` of a `pc` three past the instruction. -/
theorem longBeqzLandsAtItsNominalTarget : Obligations.LongBeqzLandsAtItsNominalTarget := by
  intro a r1 low s t hpc hz hl h
  have hlong : longOffset (signedImm low) = true := (longOffset_iff _).mpr (by rwa [signedImm_toInt])
  rw [exec_beqz_long r1 _ s hz hlong] at h
  have htarget : t.pc = branchTarget s.pc (signedImm low) := congrArg State.pc (next_inj h).symm
  rw [htarget, hpc, branchTarget_ofNat_add_three, signedImm_toInt]

end Sys2Proof.Machine

/-! PROOFS. The ALU block's ports (40_arithmetic.md R78, decision D17) against the execution of a decoded record. -/

namespace Sys2Proof.Machine

/-- The eight opcodes whose result the block supplies: executing the record latches the block's outputs. -/
theorem aluBlock_supplies (op : Opcode) (hop : op.toNat ∈ [0, 1, 2, 3, 5, 6, 8, 9]) (r1 r2 : RegIdx) (imm : Byte) (s : State) :
    ∃ o, aluBlock op (readReg s r1) (readReg s r2) imm s.flags = aluPortsOf o ∧
      exec (fieldsDecoded op r1 r2 imm).instr s = .next (latchAlu s r1 o) := by
  have hvalues : ∀ o : Opcode, o.toNat ∈ [0, 1, 2, 3, 5, 6, 8, 9] →
      o = 0#4 ∨ o = 1#4 ∨ o = 2#4 ∨ o = 3#4 ∨ o = 5#4 ∨ o = 6#4 ∨ o = 8#4 ∨ o = 9#4 := by decide
  rcases hvalues op hop with rfl | rfl | rfl | rfl | rfl | rfl | rfl | rfl
  · exact ⟨_, rfl, exec_add r1 r2 s⟩
  · exact ⟨_, rfl, exec_sub r1 r2 s⟩
  · exact ⟨_, rfl, exec_mul r1 r2 s⟩
  · exact ⟨_, rfl, exec_movi r1 imm s⟩
  · exact ⟨_, rfl, exec_andi r1 imm s⟩
  · exact ⟨_, rfl, exec_eor r1 r2 s⟩
  · exact ⟨_, rfl, exec_sal r1 imm s⟩
  · exact ⟨_, rfl, exec_sar r1 imm s⟩

/-- The other eight opcodes: the block supplies no result and passes the flags through, and execution keeps them. -/
theorem aluBlock_supplies_none (op : Opcode) (hop : op.toNat ∉ [0, 1, 2, 3, 5, 6, 8, 9]) (r1 r2 : RegIdx) (imm : Byte)
    (s : State) :
    aluBlock op (readReg s r1) (readReg s r2) imm s.flags =
        { result := none, resultWrite := decide (op = 10#4), flags := s.flags } ∧
      ∀ t, exec (fieldsDecoded op r1 r2 imm).instr s = .next t → t.flags = s.flags := by
  have hvalues : ∀ o : Opcode, o.toNat ∉ [0, 1, 2, 3, 5, 6, 8, 9] →
      o = 10#4 ∨ o = 4#4 ∨ o = 7#4 ∨ o = 11#4 ∨ o = 12#4 ∨ o = 13#4 ∨ o = 14#4 ∨ o = 15#4 := by decide
  rcases hvalues op hop with rfl | hrest
  · exact ⟨rfl, fun t h => exec_ldr_keeps_flags r1 imm s t h⟩
  · rcases hrest with rfl | rfl | rfl | rfl | rfl | rfl | rfl <;>
      exact ⟨rfl, fun t h => exec_keeps_flags_of_no_destination rfl s t h⟩

/-- Settles O51: by whether the block supplies a result for the opcode. -/
theorem executionLatchesTheAluBlock : Obligations.ExecutionLatchesTheAluBlock := by
  rintro ⟨nop, op, r1, r2, imm⟩ s hnop
  cases hnop
  by_cases hop : op.toNat ∈ [0, 1, 2, 3, 5, 6, 8, 9]
  · obtain ⟨o, hports, hexec⟩ := aluBlock_supplies op hop r1 r2 imm s
    have hwrites : ∀ o : Opcode, o.toNat ∈ [0, 1, 2, 3, 5, 6, 8, 9] → o.toNat ∈ [0, 1, 2, 3, 5, 6, 8, 9, 10] := by decide
    rw [hports]
    refine ⟨iff_of_true rfl (hwrites op hop), iff_of_false nofun (not_not_intro hop), ?_, nofun⟩
    rintro _ ⟨⟩
    exact hexec
  · obtain ⟨hports, hflags⟩ := aluBlock_supplies_none op hop r1 r2 imm s
    have hwrites : ∀ o : Opcode, o.toNat ∉ [0, 1, 2, 3, 5, 6, 8, 9] →
        (o = 10#4 ↔ o.toNat ∈ [0, 1, 2, 3, 5, 6, 8, 9, 10]) := by decide
    rw [hports]
    exact ⟨decide_eq_true_iff.trans (hwrites op hop), iff_of_true rfl hop, nofun, fun _ => ⟨rfl, hflags⟩⟩

end Sys2Proof.Machine

/-! PROOFS. Fetch, the host's load ports, reset and the clock edge (20_memory.md sections 2 and 3, 10_state.md section 5,
46_pipeline.md section 5). -/

namespace Sys2Proof.Machine

/-- Settles O34: a fetch that is not empty finds `pc` below 1024, so `pc + 1` does not wrap. -/
theorem fetchReturnsWordAndAdvancesOrIsEmpty : Obligations.FetchReturnsWordAndAdvancesOrIsEmpty := by
  intro s
  refine ⟨fetchEmpty_iff s, ?_⟩
  rcases fetch_cases s with ⟨he, hword, hpc⟩ | ⟨he, hlt, _, hword, hpc⟩
  · exact ⟨fun _ => ⟨hword, hpc⟩, by simp [he]⟩
  · have hnext : (fetchedPc s).toNat = s.pc.toNat + 1 := by
      rw [hpc, BitVec.toNat_add, BitVec.toNat_ofNat]
      omega
    exact ⟨by simp [he], fun _ => ⟨hword, hnext, by omega⟩⟩

/-- Settles O35: in range the port is `writeInstr`, out of range the identity with a report. -/
theorem loadInstructionWritesOneWordOrReports : Obligations.LoadInstructionWritesOneWordOrReports := by
  intro addr value s hwf
  refine ⟨fun haddr => ?_, loadInstruction_out_of_range addr value s⟩
  rw [loadInstruction_in_range addr value s (by omega)]
  exact ⟨rfl, readInstr_writeInstr_self s _ addr _ hwf, fun a ha => readInstr_writeInstr_other s addr a _ ha, rfl,
    imem_wf_writeInstr s addr _ hwf (by omega)⟩

/-- Settles O36: in range the port is `writeData`, out of range the identity with a report. -/
theorem loadDataWritesOneCellOrReports : Obligations.LoadDataWritesOneCellOrReports := by
  intro addr value s hwf
  refine ⟨fun haddr => ?_, loadData_out_of_range addr value s⟩
  rw [loadData_in_range addr value s (by omega)]
  exact ⟨rfl, readData_writeData_self s _ addr _ hwf, fun a ha => readData_writeData_other s addr a _ ha, rfl,
    dmem_wf_writeData s addr _ hwf (by omega)⟩

/-- Settles O38: the registers are a replicated zero, the memories empty lists, the other fields literals. -/
theorem resetHasTheSpecValues : Obligations.ResetHasTheSpecValues := by
  refine ⟨fun r => ?_, rfl, rfl, fun a => Memory.read_nil a, fun a => Memory.read_nil a, rfl, rfl, rfl, rfl, rfl, rfl⟩
  simp [readReg, State.reset]

theorem halted_eq_true_iff (s : State) : halted s = true ↔ s.sched = .halted := decide_eq_true_iff

/-- Settles O39: without reset the clock edge is the model's step. -/
theorem clockEdgeResetsOrCycles : Obligations.ClockEdgeResetsOrCycles := by
  intro s
  refine ⟨rfl, fun hrun => ?_, fun hhalt => step_halted s ((halted_eq_true_iff s).mp hhalt)⟩
  refine step_running s fun hh => ?_
  rw [(halted_eq_true_iff s).mpr hh] at hrun
  cases hrun

/-! ### HALTED (46_pipeline.md R119) -/

theorem runCycles_halted (n : Nat) (s : State) (h : s.sched = .halted) : runCycles n s = .next s := by
  induction n with
  | zero => rfl
  | succ n ih => rw [runCycles_succ n s s (step_halted s h), ih]

theorem not_halted_of_step (s t : State) (h : step s = .next t) (ht : t.sched ≠ .halted) : s.sched ≠ .halted := by
  intro hh
  rw [step_halted s hh] at h
  exact ht (next_inj h ▸ hh)

theorem cycleDiagnostic_of_not_executing (s : State) (h : executing s = none) : cycleDiagnostic s = none := by
  rw [cycleDiagnostic, h, Option.bind_none]

theorem runResult_halted (s : State) (h : s.sched = .halted) :
    runResult s = some { regs := s.regs, flags := s.flags, pc := s.pc, dmem := s.dmem } :=
  if_pos ((halted_eq_true_iff s).mpr h)

theorem runResult_not_halted (s : State) (h : s.sched ≠ .halted) : runResult s = none :=
  if_neg fun hh => h ((halted_eq_true_iff s).mp hh)

/-- Settles O40: a halted core steps to itself, and `runResult` tests for nothing else. -/
theorem haltedIsFinalAndHasTheResult : Obligations.HaltedIsFinalAndHasTheResult := by
  refine ⟨fun n s h => ⟨runCycles_halted n s h, ?_, rfl⟩, fun s => ⟨runResult_halted s, fun h => ?_⟩,
    fun s => ⟨runResult_not_halted s, fun h hh => ?_⟩⟩
  · exact cycleDiagnostic_of_not_executing s ((executing_eq_none_iff s).mpr (.inl h))
  · by_contra hne
    rw [runResult_not_halted s hne] at h
    cases h
  · rw [runResult_halted s hh] at h
    cases h

end Sys2Proof.Machine

/-! PROOFS. What a cycle writes (10_state.md sections 1 and 2, 20_memory.md sections 4 and 7). -/

namespace Sys2Proof.Machine

/-! ### The register file -/

theorem exec_keeps_reg_of_ne_destination (i : Instr) (r : RegIdx) (s t : State) (hi : destination i ≠ some r)
    (h : exec i s = .next t) : readReg t r = readReg s r := by
  rcases exec_cases i s t h with rfl | ⟨r', o, hdest, rfl⟩ | ⟨r', _, _, rfl, _, rfl⟩ | ⟨_, _, _, _, _, rfl⟩ |
    ⟨_, _, _, _, _, rfl⟩ | ⟨_, _, _, _, _, rfl⟩ | ⟨_, _, _, rfl⟩
  case inr.inl =>
    refine readReg_latchAlu_other s r' r o fun he => hi ?_
    rw [he, hdest]
  case inr.inr.inl =>
    refine readReg_writeReg_other s r' r _ fun he => hi ?_
    rw [he]
    rfl
  all_goals rfl

/-- Settles O21: phase 3 writes the destination of what it executes, and the other phases write no register. -/
theorem registersAreWrittenOnlyByTheExecutedDestination : Obligations.RegistersAreWrittenOnlyByTheExecutedDestination := by
  intro s t r h hdest
  rcases step_cases s t h with ⟨_, _, rfl⟩ | ⟨_, _, _, rfl⟩ | ⟨_, _, hsome, m, hm, rfl⟩
  · rfl
  · rw [readReg_countdownPhase, readReg_setSkip, readReg_beforeExecute]
  · rw [readReg_countdownPhase, exec_keeps_reg_of_ne_destination _ r _ m (hdest _ hsome) hm, readReg_beforeExecute]

/-! ### The program counter -/

/-- Settles O22: the two branch clauses are the executed arm on the `pc` that fetch left; without a flush phase 3 leaves that `pc`. -/
theorem pcIsWrittenByFetchLongBeqzAndBrOnly : Obligations.PcIsWrittenByFetchLongBeqzAndBrOnly := by
  intro s t hh h
  refine ⟨fun he => ?empty, fun he => ?advance, fun r1 imm hi hz hl => ?long, fun r1 r2 hi => ?br, fun hflush => ?other⟩
  case empty => rw [fetchedPc, if_pos he]
  case advance => rw [fetchedPc, if_neg (by simp [he])]; rfl
  case long =>
    obtain ⟨m, hm, rfl⟩ := step_of_executing s t _ hi h
    rw [exec_beqz_long r1 imm _ (by rwa [readReg_beforeExecute]) ((longOffset_iff imm).mpr hl)] at hm
    rw [countdownPhase_pc, ← next_inj hm, ← beforeExecute_pc]
    rfl
  case br =>
    obtain ⟨m, hm, rfl⟩ := step_of_executing s t _ hi h
    rw [exec_br, readReg_beforeExecute, readReg_beforeExecute] at hm
    rw [countdownPhase_pc, ← next_inj hm]
    rfl
  case other =>
    obtain ⟨m, hm, rfl⟩ := step_executeStage s t hh h
    rw [countdownPhase_pc]
    rcases hm.buffers with ⟨⟨i, hi, hf⟩, _⟩ | ⟨_, hpc, _⟩
    · exact absurd hf (hflush i hi)
    · exact hpc

/-! ### Data memory -/

theorem exec_data_cases (i : Instr) (s t : State) (h : exec i s = .next t) :
    DataKept s t ∨ ∃ r imm a, i = .str r imm ∧ dataIndex imm = some a ∧ DataKeptBut a s t := by
  rcases exec_cases i s t h with rfl | ⟨_, _, _, rfl⟩ | ⟨_, _, _, _, _, rfl⟩ | ⟨r, imm, a, hi, ha, rfl⟩ |
    ⟨_, _, _, _, _, rfl⟩ | ⟨_, _, _, _, _, rfl⟩ | ⟨_, _, _, rfl⟩
  case inr.inr.inr.inl => exact .inr ⟨r, imm, a, hi, ha, fun b hb => readData_writeData_other s a b _ hb⟩
  all_goals exact .inl fun _ => rfl

/-- An immediate that a word can hold reaches no cell from 32 on. -/
theorem dataIndex_lt_of_immInRange (imm : Byte) (a : Nat) (himm : immInRange imm = true) (h : dataIndex imm = some a) :
    a < 32 := by
  rw [← signedImm_lowOfImm imm himm] at h
  exact dataIndex_signedImm_lt _ a h

/-- A step keeps data memory, or executes a STR that a word stands for. -/
theorem step_data_cases (s t : State) (h : step s = .next t) :
    DataKept s t ∨ ∃ r imm a, executing s = some (.str r imm) ∧ a < 32 ∧ DataKeptBut a s t := by
  rcases step_cases s t h with ⟨_, _, rfl⟩ | ⟨_, _, _, rfl⟩ | ⟨_, _, hsome, m, hm, rfl⟩
  · exact .inl fun _ => rfl
  · exact .inl fun a => by rw [readData_countdownPhase, readData_setSkip, readData_beforeExecute]
  · rcases exec_data_cases _ _ _ hm with hkept | ⟨r, imm, a, hi, ha, hbut⟩
    · exact .inl fun b => by rw [readData_countdownPhase, hkept b, readData_beforeExecute]
    · obtain ⟨hwf, _⟩ := encodeOfDecodeIsIdentity s.idBuf
      rw [hi] at hwf hsome
      refine .inr ⟨r, imm, a, hsome, dataIndex_lt_of_immInRange imm a hwf ha, fun b hb => ?_⟩
      rw [readData_countdownPhase, hbut b hb, readData_beforeExecute]

/-- Settles O23: the one cell a cycle can write belongs to an executed STR and lies below 32. -/
theorem dataMemoryChangesOnlyByStrBelow32 : Obligations.DataMemoryChangesOnlyByStrBelow32 := by
  intro s t h
  rcases step_data_cases s t h with hkept | ⟨r, imm, a, hi, ha, hbut⟩
  · exact ⟨fun b _ => hkept b, fun _ => hkept⟩
  · exact ⟨fun b hb => hbut b (by omega), fun hno => absurd hi (hno r imm)⟩

end Sys2Proof.Machine

/-! PROOFS. The pipeline (46_pipeline.md): the shift, the execute gate, the cycles after a flush or a short branch, and the empty
pipeline. -/

namespace Sys2Proof.Machine

/-! ### The step around the execute stage -/

/-- Settles O41: phases 1, 2 and 4 write only `pc`, the buffers and the scheduler's fields. -/
theorem stepRunsTheDecodedInstruction : Obligations.StepRunsTheDecodedInstruction := by
  rintro i s _ rfl hh hk
  obtain ⟨m, hm⟩ := exec_answers_next (decodeInstr s.idBuf) (beforeExecute s)
  refine ⟨?_, readReg_beforeExecute s, beforeExecute_flags s, readData_beforeExecute s, readInstr_beforeExecute s,
    beforeExecute_skip s, beforeExecute_pc s, beforeExecute_ifBuf s, beforeExecute_idBuf s, beforeExecute_ex s, fun t =>
    ⟨readReg_countdownPhase t, countdownPhase_flags t, readData_countdownPhase t, readInstr_countdownPhase t,
      ⟨countdownPhase_pc t, countdownPhase_ifBuf t, countdownPhase_idBuf t, countdownPhase_skip t⟩, countdownPhase_ex t⟩⟩
  rw [step_executes s m hh hk hm, hm, afterNext_next]

/-- Settles O42: the shift is phase 1; after it only a flush writes the raw buffers, and nothing writes EX. -/
theorem shiftHappensInEveryCycle : Obligations.ShiftHappensInEveryCycle := by
  intro s t hh h
  obtain ⟨m, hm, rfl⟩ := step_executeStage s t hh h
  obtain ⟨_, hex, _⟩ := hm.keeps_code_ex_sched
  rw [countdownPhase_ex, countdownPhase_idBuf, countdownPhase_ifBuf]
  refine ⟨hex, ?_⟩
  rcases hm.buffers with ⟨⟨i, hi, hf⟩, hif, hid⟩ | ⟨hno, _, hif, hid⟩
  · exact ⟨fun hno => absurd hf (hno i hi), fun _ => ⟨hid, hif⟩⟩
  · exact ⟨fun _ => ⟨hid, hif⟩, fun ⟨i, hi, hf⟩ => absurd hf (hno i hi)⟩

/-- Settles O49: the shift twice, first into IF and then from IF to ID. -/
theorem fetchedWordReachesIdTwoCyclesLater : Obligations.FetchedWordReachesIdTwoCyclesLater := by
  intro s t u hs ht hst htu hnos hnot
  obtain ⟨_, hkept, _⟩ := shiftHappensInEveryCycle s t hs hst
  obtain ⟨_, hkept', _⟩ := shiftHappensInEveryCycle t u ht htu
  obtain ⟨_, hif⟩ := hkept hnos
  obtain ⟨hid, _⟩ := hkept' hnot
  exact hid.trans hif

/-! ### The execute gate (46_pipeline.md R114) -/

/-- With the sentinel in ID nothing but NOP can execute. -/
theorem eq_nop_of_executing_sentinel (s : State) (i : Instr) (hid : s.idBuf = 0xFFFF#16) (hi : executing s = some i) :
    i = .nop := by
  obtain ⟨_, _, hdecode⟩ := (executing_eq_some_iff s i).mp hi
  rw [← hdecode, hid, decodeInstr_nopWord]

theorem cycleDiagnostic_of_sentinel (s : State) (hid : s.idBuf = 0xFFFF#16) : cycleDiagnostic s = none := by
  cases hi : executing s with
  | none => exact cycleDiagnostic_of_not_executing s hi
  | some i => rw [cycleDiagnostic, hi, eq_nop_of_executing_sentinel s i hid hi]; rfl

/-- A taken BEQZ is the only way for a cycle to change a skip counter of 0 or less. -/
theorem step_keeps_skip (s t : State) (hh : s.sched ≠ .halted) (hk : s.skip ≤ 0) (h : step s = .next t)
    (hbeqz : ∀ r1 imm, executing s = some (.beqz r1 imm) → readReg s r1 ≠ 0#8) : t.skip = s.skip := by
  obtain ⟨m, hm, rfl⟩ := step_executeStage s t hh h
  rw [countdownPhase_skip]
  cases hm with
  | elided hpos => omega
  | executed _ hsome hexec =>
    rcases exec_skip_cases _ _ _ hexec with hkept | ⟨⟨r, imm, hi, hz⟩, _⟩
    · rw [hkept, beforeExecute_skip]
    · rw [hi] at hsome
      rw [readReg_beforeExecute] at hz
      exact absurd hz (hbeqz r imm hsome)

/-- Settles O43: a positive counter makes the cycle idle; otherwise EX executes, and the counter is neither read nor, without a taken
BEQZ, written. -/
theorem positiveSkipElidesAndOthersHaveNoEffect : Obligations.PositiveSkipElidesAndOthersHaveNoEffect := by
  refine ⟨fun s hh hk => ?elided, fun s hh hk => ?runs, step_keeps_skip, fun s k t hs hk h => step_setSkip s t k hs hk h⟩
  case elided =>
    refine ⟨idleCycle s, step_idle s hh (.inl hk), ?_, fun r => ?_, idleCycle_flags s, fun a => ?_, fun a => ?_,
      idleCycle_pc s, idleCycle_idBuf s, idleCycle_ifBuf s,
      cycleDiagnostic_of_not_executing s ((executing_eq_none_iff s).mpr (.inr hk))⟩
    · rw [idleCycle_skip, idleSkip_of_pos hk]
    · simp [readReg]
    · simp [readData]
    · simp [readInstr]
  case runs =>
    have hstep := (step_running s hh).trans
      (congrArg (afterNext countdownPhase) (executePhase_runs (beforeExecute s) (by rwa [beforeExecute_skip])))
    refine ⟨hstep, fun htag => ?_⟩
    have hid : s.idBuf = 0xFFFF#16 := (decode_nop_iff s.idBuf).mp (by rwa [beforeExecute_ex] at htag)
    rw [hstep, Decoded.instr, if_pos htag, exec_nop, afterNext_next]
    exact ⟨rfl, cycleDiagnostic_of_sentinel s hid⟩

/-! ### After a flush (46_pipeline.md section 3) -/

/-- With the sentinel in ID a step is an idle cycle, or nothing in HALTED. -/
theorem step_sentinel_cases (s t : State) (hid : s.idBuf = 0xFFFF#16) (h : step s = .next t) :
    s.sched = .halted ∧ t = s ∨ s.sched ≠ .halted ∧ t = idleCycle s := by
  by_cases hh : s.sched = .halted
  · rw [step_halted s hh] at h
    exact .inl ⟨hh, (next_inj h).symm⟩
  · rw [step_idle s hh (.inr hid)] at h
    exact .inr ⟨hh, (next_inj h).symm⟩

theorem step_sentinel_keeps (s t : State) (hid : s.idBuf = 0xFFFF#16) (h : step s = .next t) :
    t.regs = s.regs ∧ t.flags = s.flags ∧ t.dmem = s.dmem := by
  rcases step_sentinel_cases s t hid h with ⟨_, rfl⟩ | ⟨_, rfl⟩
  · exact ⟨rfl, rfl, rfl⟩
  · exact ⟨idleCycle_regs s, idleCycle_flags s, idleCycle_dmem s⟩

theorem idleSkip_idleSkip_nonpos {k : Int} (h : k ≤ 2) : idleSkip (idleSkip k) ≤ 0 := by
  by_cases hk : 0 < k
  · rw [idleSkip_of_pos hk]
    unfold idleSkip
    split <;> omega
  · have hnonpos : k ≤ 0 := not_lt.mp hk
    rwa [idleSkip_of_nonpos hnonpos, idleSkip_of_nonpos hnonpos]

/-- Settles O46: both steps are idle cycles, the second because the sentinel in IF moved to ID, and together they spend a counter of at
most 2. -/
theorem twoCyclesAfterAFlushExecuteNothing : Obligations.TwoCyclesAfterAFlushExecuteNothing := by
  intro s t u hif hid hst htu
  have hidt : t.idBuf = 0xFFFF#16 := by
    rcases step_sentinel_cases s t hid hst with ⟨_, rfl⟩ | ⟨_, rfl⟩
    · exact hid
    · rw [idleCycle_idBuf, hif]
  obtain ⟨hregs, hflags, hdmem⟩ := step_sentinel_keeps s t hid hst
  obtain ⟨hregs', hflags', hdmem'⟩ := step_sentinel_keeps t u hidt htu
  refine ⟨hregs, hflags, hdmem, hregs'.trans hregs, hflags'.trans hflags, hdmem'.trans hdmem, fun i hi => ?nop,
    cycleDiagnostic_of_sentinel s hid, cycleDiagnostic_of_sentinel t hidt, fun hu => ?next⟩
  case nop =>
    rcases hi with hi | hi
    · exact eq_nop_of_executing_sentinel s i hid hi
    · exact eq_nop_of_executing_sentinel t i hidt hi
  case next =>
    have ht := not_halted_of_step t u htu hu
    have hs := not_halted_of_step s t hst ht
    obtain ⟨_, rfl⟩ := (step_sentinel_cases s t hid hst).resolve_left fun h => hs h.1
    obtain ⟨_, rfl⟩ := (step_sentinel_cases _ u hidt htu).resolve_left fun h => ht h.1
    have hword : (idleCycle (idleCycle s)).idBuf = fetchedWord s := by rw [idleCycle_idBuf, idleCycle_ifBuf]
    refine ⟨hword, fun hk => (executing_eq_some_iff _ _).mpr ⟨hu, ?_, by rw [hword]⟩⟩
    rw [idleCycle_skip, idleCycle_skip]
    exact idleSkip_idleSkip_nonpos hk

/-! ### After a short branch (43_control.md R90) -/

/-- As long as the counter is positive each cycle spends one of it, unless the core halts. -/
theorem runCycles_spends_skip (n : Nat) (t u : State) (hn : (n : Int) ≤ t.skip) (h : runCycles n t = .next u) :
    u.sched = .halted ∨ u.skip = t.skip - n := by
  induction n generalizing t with
  | zero =>
    rw [← next_inj h]
    exact .inr (by simp)
  | succ n ih =>
    by_cases hh : t.sched = .halted
    · rw [runCycles_halted _ t hh] at h
      exact .inl (next_inj h ▸ hh)
    · have hk : 0 < t.skip := by omega
      have hskip : (idleCycle t).skip = t.skip - 1 := by rw [idleCycle_skip, idleSkip_of_pos hk]
      rw [runCycles_succ n t _ (step_idle t hh (.inl hk))] at h
      rcases ih (idleCycle t) (by omega) h with hhalt | hu
      · exact .inl hhalt
      · exact .inr (by omega)

theorem skip_after_short_beqz (r1 : RegIdx) (imm : Byte) (s t : State) (hi : executing s = some (.beqz r1 imm))
    (hz : readReg s r1 = 0#8) (hshort : ¬ (3 ≤ imm.toInt ∨ imm.toInt ≤ -3)) (h : step s = .next t) : t.skip = imm.toInt := by
  obtain ⟨m, hm, rfl⟩ := step_of_executing s t _ hi h
  rw [exec_beqz_short r1 imm _ (by rwa [readReg_beforeExecute]) ((longOffset_eq_false_iff imm).mpr hshort)] at hm
  rw [countdownPhase_skip, ← next_inj hm]
  rfl

/-- Settles O47: the branch loads the counter with its offset, and the following cycles spend it one by one. -/
theorem shortBeqzElidesExactlyItsOffset : Obligations.ShortBeqzElidesExactlyItsOffset := by
  intro r1 low s t hi hz hlo hhi h
  have hload : t.skip = low.toInt := by
    rw [skip_after_short_beqz r1 _ s t hi hz (by rw [signedImm_toInt]; omega) h, signedImm_toInt]
  refine ⟨fun n u hn hrun => ?during, fun n u hn hrun hu => ?after⟩
  case during =>
    refine (executing_eq_none_iff u).mpr ?_
    rcases runCycles_spends_skip n t u (by omega) hrun with hhalt | hskip
    · exact .inl hhalt
    · exact .inr (by omega)
  case after =>
    have hzero : u.skip = 0 := by
      have hskip := (runCycles_spends_skip n t u (by omega) hrun).resolve_left hu
      omega
    exact ⟨hzero, (executing_eq_some_iff u _).mpr ⟨hu, le_of_eq hzero, rfl⟩⟩

/-! ### The empty pipeline (46_pipeline.md section 4) -/

/-- An idle cycle with nothing to fetch leaves `pc` where it is, and so nothing to fetch, and the sentinel in IF. -/
theorem idleCycle_of_fetchEmpty (s : State) (he : fetchEmpty s = true) :
    (idleCycle s).pc = s.pc ∧ fetchEmpty (idleCycle s) = true ∧ fetchedWord s = 0xFFFF#16 := by
  have hpc : (idleCycle s).pc = s.pc := by rw [idleCycle_pc, fetchedPc, if_pos he]
  refine ⟨hpc, ?_, by rw [fetchedWord, if_pos he]⟩
  rwa [fetchEmpty_congr _ s hpc (idleCycle_imem s)]

/-- Settles O50: two idle cycles, the first of which starts the drain and the second ends it, with nothing to fetch throughout. -/
theorem emptyPipelineHaltsInTwoCycles : Obligations.EmptyPipelineHaltsInTwoCycles := by
  intro s hif hid hrun he
  obtain ⟨hpc, he', hword⟩ := idleCycle_of_fetchEmpty s he
  obtain ⟨hpc', he'', hword'⟩ := idleCycle_of_fetchEmpty (idleCycle s) he'
  have hs : s.sched ≠ .halted := by rw [hrun]; nofun
  have hfirst := step_idle s hs (.inr hid)
  obtain ⟨_, hstart, _⟩ := schedulerFollowsItsTransitionTable s _ hfirst hs
  obtain ⟨hdraining, hone⟩ := hstart hword hrun
  have ht : (idleCycle s).sched ≠ .halted := by rw [hdraining]; nofun
  have hsecond := step_idle (idleCycle s) ht (.inr (by rw [idleCycle_idBuf, hif]))
  obtain ⟨_, _, hend⟩ := schedulerFollowsItsTransitionTable _ _ hsecond ht
  obtain ⟨_, hhalted⟩ := hend hword' hdraining hone
  refine ⟨idleCycle (idleCycle s), ?_, hhalted.trans (if_pos he''), by simp, by simp, by simp, by simp, hpc'.trans hpc⟩
  rw [runCycles_succ 1 s _ hfirst, runCycles_succ 0 _ _ hsecond, runCycles_zero]

end Sys2Proof.Machine

/-! PROOFS. When a cycle emits a diagnostic event, and which (60_exceptions.md section 1). -/

namespace Sys2Proof.Machine

theorem indexDiagnostic_signedImm_eq_some_iff (source : AccessSource) (low : RegIdx) (d : Diagnostic) :
    indexDiagnostic source (signedImm low) = some d ↔ low.toInt < 0 ∧ d = .addressOutOfRange source low.toInt := by
  have hindex := dataIndex_signedImm low
  by_cases hlow : 0 ≤ low.toInt
  · rw [if_pos hlow] at hindex
    rw [indexDiagnostic_admitted source _ _ hindex]
    exact iff_of_false nofun fun ⟨hneg, _⟩ => absurd hlow (not_le.mpr hneg)
  · rw [if_neg hlow] at hindex
    rw [indexDiagnostic_dropped source _ hindex, signedImm_toInt, Option.some_inj, eq_comm, and_iff_right (not_le.mp hlow)]

/-- What a word other than NOP emits, by its opcode field: the memory opcodes read the low field signed. -/
theorem emitted_decodeInstr_of_ne (w : Word) (hw : w ≠ 0xFFFF#16) :
    emitted (decodeInstr w) =
      if 12 ≤ (opcodeField w).toNat then some (.unrecognizedOpcode (opcodeField w))
      else if opcodeField w = 10#4 then indexDiagnostic .ldr (signedImm (lowField w))
      else if opcodeField w = 11#4 then indexDiagnostic .str (signedImm (lowField w))
      else none := by
  by_cases hshift : opcodeField w = 8#4 ∨ opcodeField w = 9#4
  · rw [decodeInstr, decode_of_ne w hw]
    refine (emitted_fieldsDecoded_instr _ _ _ _).trans ?_
    rcases hshift with hop | hop <;> rw [hop] <;> rfl
  · rw [decodeInstr, decode_eq_fieldsDecoded w hw hshift, emitted_fieldsDecoded_instr]

theorem emitted_decodeInstr_eq_some_iff (w : Word) (d : Diagnostic) (hw : w ≠ 0xFFFF#16) :
    emitted (decodeInstr w) = some d ↔
      (12 ≤ (opcodeField w).toNat ∧ d = .unrecognizedOpcode (opcodeField w)) ∨
      (opcodeField w = 10#4 ∧ (lowField w).toInt < 0 ∧ d = .addressOutOfRange .ldr (lowField w).toInt) ∨
      (opcodeField w = 11#4 ∧ (lowField w).toInt < 0 ∧ d = .addressOutOfRange .str (lowField w).toInt) := by
  rw [emitted_decodeInstr_of_ne w hw]
  by_cases hlarge : 12 ≤ (opcodeField w).toNat
  · have hmem : ∀ o : Opcode, 12 ≤ o.toNat → o ≠ 10#4 ∧ o ≠ 11#4 := by decide
    obtain ⟨h10, h11⟩ := hmem _ hlarge
    simp [hlarge, h10, h11, eq_comm]
  · by_cases h10 : opcodeField w = 10#4
    · simp [h10, indexDiagnostic_signedImm_eq_some_iff]
    · by_cases h11 : opcodeField w = 11#4
      · simp [h11, indexDiagnostic_signedImm_eq_some_iff]
      · simp [hlarge, h10, h11]

/-- A cycle's event is the event of the word in ID, when the cycle executes it. -/
theorem cycleDiagnostic_eq_some_iff (s : State) (d : Diagnostic) :
    cycleDiagnostic s = some d ↔ s.sched ≠ .halted ∧ s.skip ≤ 0 ∧ emitted (decodeInstr s.idBuf) = some d := by
  rw [cycleDiagnostic, Option.bind_eq_some_iff]
  constructor
  · rintro ⟨i, hi, hd⟩
    obtain ⟨hh, hk, rfl⟩ := (executing_eq_some_iff s i).mp hi
    exact ⟨hh, hk, hd⟩
  · rintro ⟨hh, hk, hd⟩
    exact ⟨_, (executing_eq_some_iff s _).mpr ⟨hh, hk, rfl⟩, hd⟩

/-- Settles O53: NOP emits nothing, and any other word what its fields say. -/
theorem cyclesReportExactlyTheTwoConditions : Obligations.CyclesReportExactlyTheTwoConditions := by
  intro s d
  rw [cycleDiagnostic_eq_some_iff]
  refine and_congr_right fun _ => and_congr_right fun _ => ?_
  by_cases hw : s.idBuf = 0xFFFF#16
  · rw [hw, decodeInstr_nopWord]
    exact iff_of_false nofun fun ⟨hne, _⟩ => hne rfl
  · rw [emitted_decodeInstr_eq_some_iff s.idBuf d hw]
    exact (and_iff_right hw).symm

end Sys2Proof.Machine
